-- ==== Sys2Proof/Word.lean ====
section
/-! DEFINITION. The word types of the block (00_scope.md R8: every value is unsigned, bit 0 is the least significant). -/

namespace Sys2Proof

/-- A byte of a frame (R10). -/
abbrev Byte := BitVec 8

/-- A 16-bit value: the CRC, a Modbus address, value or register (R74, R120). -/
abbrev Half := BitVec 16

/-- A 32-bit value: a command word or what one host access carries (R62, R90). -/
abbrev Word := BitVec 32

end Sys2Proof
end

