-- ==== Sys2Proof/Syntax.lean ====
section
/-! DEFINITION. The block's commands (R93): one constructor per row of spec/opcode_table.json. -/

namespace Sys2Proof

/-- The commands. CRC_BYTE and RX_PUSH carry their byte operand IMM8; every other command takes its operands from
registers (R91). -/
inductive Instr where
  | nop
  | crcInit
  | crcByte (b : Byte)
  | crcRx
  | encode
  | loopback
  | rxClear
  | rxPush (b : Byte)
  | decode
  | parse
  | srst
  deriving DecidableEq, Repr

end Sys2Proof
end

