-- ==== Sys2Proof/WellFormed.lean ====
section
/-! DEFINITION. Which commands and which 32-bit words are well formed: R96's list of illegal words, written as four checks
of a word's fields, apart from the decoder (which follows R95). -/

namespace Sys2Proof

/-- Every command is well formed: a byte operand is any byte (R91), and no other command has an operand. -/
def Instr.wf : Instr → Bool
  | .nop | .crcInit | .crcByte _ | .crcRx | .encode | .loopback | .rxClear | .rxPush _ | .decode | .parse | .srst => true

/-- R93: the opcodes of the table. -/
def assignedOpcodes : List Nat := [0x00, 0x01, 0x02, 0x03, 0x10, 0x11, 0x20, 0x21, 0x30, 0x31, 0xFF]

/-- R93: the opcodes whose IMM8 is a byte operand. -/
def byteOpcodes : List Nat := [0x02, 0x21]

/-- R96, first point: RSV is zero. -/
def reservedZero (w : Word) : Bool := w.toNat / 0x10000 == 0

/-- R96, second point: the opcode is in R93's table. -/
def opcodeAssigned (w : Word) : Bool := assignedOpcodes.contains (w.toNat % 0x100)

/-- R96, third point: an opcode that takes no immediate has IMM8 zero. -/
def immediateAllowed (w : Word) : Bool :=
  byteOpcodes.contains (w.toNat % 0x100) || w.toNat / 0x100 % 0x100 == 0

/-- R96, fourth point: OPC 0xFF stands only in the word 0x000000FF. -/
def srstExact (w : Word) : Bool := w.toNat % 0x100 != 0xFF || w == 0x000000FF#32

/-- A word is legal when none of R96's four points holds of it. -/
def legalWord (w : Word) : Bool := reservedZero w && opcodeAssigned w && immediateAllowed w && srstExact w

end Sys2Proof
end

