-- ==== Sys2Proof/Decode.lean ====
section
/-! DEFINITION. The decoder of command words (R90, R93, R95, R96), total on every 32-bit word, and the encoder beside it. A
command is the value of one 32-bit CMD write (R90), so there is no byte stream to cut and no length to find. -/

namespace Sys2Proof

/-- Why a word is no command (R96). -/
inductive Illegal where
  /-- RSV is not zero. -/
  | reservedBits (rsv : Half)
  /-- OPC is not in R93's table. -/
  | unassignedOpcode (opc : Byte)
  /-- OPC takes no immediate and IMM8 is not zero. -/
  | immediateNotZero (opc imm : Byte)
  /-- OPC is 0xFF and the word is not 0x000000FF (R94). -/
  | notExactSrst (imm : Byte)
  deriving DecidableEq, Repr

/-- OPC, bits 7:0 (R90). -/
def opcField (w : Word) : Byte := w.extractLsb' 0 8

/-- IMM8, bits 15:8 (R90). -/
def immField (w : Word) : Byte := w.extractLsb' 8 8

/-- RSV, bits 31:16 (R90). -/
def rsvField (w : Word) : Half := w.extractLsb' 16 16

/-- The one word that is SRST (R94). -/
def srstWord : Word := 0x000000FF#32

/-- A command whose opcode takes no immediate: IMM8 must be zero (R95). -/
def withoutImm (opc imm : Byte) (i : Instr) : Except Illegal Instr :=
  if imm = 0#8 then .ok i else .error (.immediateNotZero opc imm)

/-- R93's table, by opcode. The case 0xFF is R94's, and reached only with RSV zero. -/
def decodeOpcode (opc imm : Byte) : Except Illegal Instr :=
  if opc = 0x00#8 then withoutImm opc imm .nop
  else if opc = 0x01#8 then withoutImm opc imm .crcInit
  else if opc = 0x02#8 then .ok (.crcByte imm)
  else if opc = 0x03#8 then withoutImm opc imm .crcRx
  else if opc = 0x10#8 then withoutImm opc imm .encode
  else if opc = 0x11#8 then withoutImm opc imm .loopback
  else if opc = 0x20#8 then withoutImm opc imm .rxClear
  else if opc = 0x21#8 then .ok (.rxPush imm)
  else if opc = 0x30#8 then withoutImm opc imm .decode
  else if opc = 0x31#8 then withoutImm opc imm .parse
  else if opc = 0xFF#8 then (if imm = 0#8 then .ok .srst else .error (.notExactSrst imm))
  else .error (.unassignedOpcode opc)

/-- The command a word stands for (R93), or why it is illegal (R96). RSV is looked at first (R95). -/
def decode (w : Word) : Except Illegal Instr :=
  if rsvField w = 0#16 then decodeOpcode (opcField w) (immField w) else .error (.reservedBits (rsvField w))

/-- A word with RSV zero and the given OPC and IMM8 (R90). -/
def commandWord (opc imm : Byte) : Word := opc.setWidth 32 ||| imm.setWidth 32 <<< 8

/-- The word of a command (the word column of R93). -/
def encode : Instr → Word
  | .nop => commandWord 0x00#8 0#8
  | .crcInit => commandWord 0x01#8 0#8
  | .crcByte b => commandWord 0x02#8 b
  | .crcRx => commandWord 0x03#8 0#8
  | .encode => commandWord 0x10#8 0#8
  | .loopback => commandWord 0x11#8 0#8
  | .rxClear => commandWord 0x20#8 0#8
  | .rxPush b => commandWord 0x21#8 b
  | .decode => commandWord 0x30#8 0#8
  | .parse => commandWord 0x31#8 0#8
  | .srst => commandWord 0xFF#8 0#8

/-- The word whose low nbits bits are those of w, and whose other bits are zero. -/
def tableWord (nbits w : Nat) : Word := BitVec.ofNat 32 (w % 2 ^ nbits)

/-- The decoder on a word numbered as spec/opcode_table.json numbers it. -/
def decodeTableWord (nbits w : Nat) : Option Instr :=
  match decode (tableWord nbits w) with
  | .ok i => some i
  | .error _ => none

end Sys2Proof
end

