-- ==== Sys2Proof/Config.lean ====
section
/-! DEFINITION. What one built block fixes (R7) and the free values: what the spec leaves open at a run (R61, R68). -/

namespace Sys2Proof

/-- The default of P_RX_CAP (R7): the capacity that State.reset has. -/
def Config.rxCapDefault : Nat := 260

/-- The least legal P_RX_CAP (R7). -/
def Config.rxCapMin : Nat := 8

/-- The largest legal P_RX_CAP (R7). -/
def Config.rxCapMax : Nat := 768

/-- FREE VALUE (R61, I2, I3; log 2). How many host accesses come between the acceptance of the n-th command and the
engine's step for it. The spec leaves the latency unbounded and asks only that the step comes. -/
opaque Config.latency : Nat → Nat

/-- FREE VALUE (R68, I1; log 3). What the n-th host read of a result register while BUSY returns. -/
opaque Config.busyDraw : Nat → Word

end Sys2Proof
end

