-- ==== Sys2Proof/Machine/State.lean ====
section
/-! DEFINITION. The state of the block (10_state.md R20), of the host beside it, and the state right after reset (R37). -/

namespace Sys2Proof.Machine

/-- A buffer of w-bit entries: pairs (index, entry), indices strictly rising, no entry equal to 0, which is what an
unlisted index holds (the reset contents, R37; log 6). A buffer of bytes is a list of `Host.Cell`. -/
abbrev Memory (w : Nat) := List (Nat × BitVec w)

/-- The status codes of STATUS.ERR (R240). Codes 8 to 15 are reserved and never written (R29; log 18). -/
inductive Code where
  /-- 0: every command on success. -/
  | ok
  /-- 1: an operand of ENCODE exceeds its field width (R142). -/
  | encodingError
  /-- 2: DECODE, PARSE: fewer than 3 bytes (R182). -/
  | frameTooShort
  /-- 3: DECODE, PARSE: the trailing two bytes are not the CRC (R183). -/
  | checksumMismatch
  /-- 4: DECODE: a read response shorter than its byte count says (R185). -/
  | truncatedPayload
  /-- 5: DECODE of function 0x06, PARSE: not 8 bytes (R187, R190). -/
  | lengthMismatch
  /-- 6: RX_PUSH: the buffer holds P_RX_CAP bytes (R162). -/
  | bufferFull
  /-- 7: an illegal word (R96). -/
  | illegalCommand
  deriving DecidableEq, Repr

/-- What the host does next: one bus access, the poll loop, or the power-on reset from outside. -/
inductive HostEvent where
  /-- A read of nbytes bytes at an offset (R63, R98 `rd`). -/
  | rd (off nbytes : Nat)
  /-- A write of nbytes bytes at an offset (R64, R98 `wr`). -/
  | wr (off nbytes : Nat) (v : Word)
  /-- Read STATUS until BUSY = 0 (R98 `poll`). -/
  | poll
  /-- Power-on reset (R270). -/
  | powerOn
  deriving DecidableEq, Repr

/-- No fault exists: the block raises no exception and has no trap (R245, R247; 93_implementation_defined.md: nothing in
the block is modelled as `fault`). Every error is a status code (R240). -/
inductive Fault where
  deriving DecidableEq, Repr

/-- Why a step has no meaning. -/
inductive Refusal where
  /-- Raised by `exec` for a command that has no meaning yet (none is left). Safe: the run stops. -/
  | notModelled (mnemonic : String)
  /-- Raised by a host access that is not 4 bytes wide (R65). Safe: the run stops. -/
  | accessWidth (nbytes : Nat)
  /-- Raised by a host access at an offset that is no multiple of 4 (R65). Safe: the run stops. -/
  | misalignedAccess (off : Nat)
  /-- Raised by a host access at an offset above 0xFFC (R65). Safe: the run stops. -/
  | outsideWindow (off : Nat)
  deriving DecidableEq, Repr

/-- The state. The first group is R20's list; CMD and ID hold nothing that changes (R33, R34), and STATUS is `pending`,
`resValid`, `ovr` and `err` (R29, R30). -/
structure State where
  /-- P_RX_CAP, the block's parameter (R7; log 4). No step changes it. -/
  rxCap : Nat
  /-- OP_DEV (R22). -/
  opDev : Word
  /-- OP_FN (R22). -/
  opFn : Word
  /-- OP_ADDR (R22). -/
  opAddr : Word
  /-- OP_VAL (R22). -/
  opVal : Word
  /-- CRC_ACC (R23). -/
  crcAcc : Half
  /-- TX[0..7] (R24). -/
  tx : Memory 8
  /-- TX_LEN (R24). -/
  txLen : BitVec 4
  /-- RX[0..P_RX_CAP-1] (R25). -/
  rx : Memory 8
  /-- RX_LEN (R25). -/
  rxLen : BitVec 10
  /-- RES_DEV (R26). -/
  resDev : Byte
  /-- RES_FN (R26). -/
  resFn : Byte
  /-- RES_ADDR (R26). -/
  resAddr : Half
  /-- RES_VAL (R26). -/
  resVal : Half
  /-- RES_N (R26). -/
  resN : Byte
  /-- RES_CRC (R28). -/
  resCrc : Half
  /-- RES_RXCRC (R28). -/
  resRxcrc : Half
  /-- REG_COUNT (R27). -/
  regCount : BitVec 7
  /-- REGS[0..126] (R27). -/
  regs : Memory 16
  /-- STATUS.RES_VALID (R31). -/
  resValid : Bool
  /-- STATUS.OVR (R32). -/
  ovr : Bool
  /-- STATUS.ERR (R29, R240). -/
  err : Code
  /-- PENDING (R35). -/
  pending : Option Word
  /-- The model's own: how many host accesses still come before the engine's step (log 2). -/
  latency : Nat
  /-- The model's own: how many commands have been accepted, the argument of `Config.latency` (log 2). -/
  accepted : Nat
  /-- The model's own: how many free busy reads have been made, the argument of `Config.busyDraw` (log 3). -/
  draws : Nat
  /-- The model's own: what the host has yet to do, in order (log 10). -/
  host : List HostEvent
  /-- The model's own: offset and value of each `rd` the host has done, newest first (log 17). -/
  reads : List (Nat × Word)
  deriving DecidableEq, Repr

/-- R37's table for a block of the given capacity, with a host that has nothing to do. -/
def State.resetWith (cap : Nat) : State where
  rxCap := cap
  opDev := 0
  opFn := 0
  opAddr := 0
  opVal := 0
  crcAcc := 0xFFFF
  tx := []
  txLen := 0
  rx := []
  rxLen := 0
  resDev := 0
  resFn := 0
  resAddr := 0
  resVal := 0
  resN := 0
  resCrc := 0
  resRxcrc := 0
  regCount := 0
  regs := []
  resValid := false
  ovr := false
  err := .ok
  pending := none
  latency := 0
  accepted := 0
  draws := 0
  host := []
  reads := []

/-- The machine right after reset (R37), at the default capacity (R7). -/
def State.reset : State := State.resetWith Config.rxCapDefault

end Sys2Proof.Machine
end

