-- ==== Sys2Proof/Machine/Ops.lean ====
section
/-! DEFINITION. The shared operations: reading and writing a buffer, ending a command with a status code, clearing the
results, accepting a word, resetting the block.

The block has no trap entry and no return (R247, R248): what stands in their place is `finish`, which every command ends
with (R11), and which moves no control and saves nothing but the code (R241). -/

namespace Sys2Proof.Machine

/-- Run a second meaning in the state the first one leaves. -/
def andThen (o : Host.Outcome State Fault Refusal) (f : State → Host.Outcome State Fault Refusal) :
    Host.Outcome State Fault Refusal :=
  match o with
  | .next s => f s
  | .fault r => .fault r
  | .refused r => .refused r

/-- The entry at an index; 0 where nothing is listed (R37). -/
def Memory.readCell {w : Nat} : Memory w → Nat → BitVec w
  | [], _ => 0
  | (k, v) :: m, i => if k = i then v else Memory.readCell m i

/-- The buffer with nothing listed at an index. -/
def Memory.eraseCell {w : Nat} : Memory w → Nat → Memory w
  | [], _ => []
  | (k, v) :: m, i => if k = i then Memory.eraseCell m i else (k, v) :: Memory.eraseCell m i

/-- The buffer with one more pair, at its place in the rising order. -/
def Memory.insertCell {w : Nat} : Memory w → Nat → BitVec w → Memory w
  | [], i, v => [(i, v)]
  | (k, u) :: m, i, v => if i < k then (i, v) :: (k, u) :: m else (k, u) :: Memory.insertCell m i v

/-- The buffer with v at index i. Writing 0 takes the entry out, so that equal buffers are equal lists. -/
def Memory.writeCell {w : Nat} (m : Memory w) (i : Nat) (v : BitVec w) : Memory w :=
  if v = 0 then m.eraseCell i else Memory.insertCell (m.eraseCell i) i v

/-- The n entries from index i on, `m[i .. i+n)` (R10). -/
def Memory.readRange {w : Nat} (m : Memory w) (i n : Nat) : List (BitVec w) :=
  (List.range n).map fun j => m.readCell (i + j)

/-- The buffer with a sequence stored from index i on, in order (R10). -/
def Memory.writeRange {w : Nat} (m : Memory w) (i : Nat) : List (BitVec w) → Memory w
  | [] => m
  | v :: vs => Memory.writeRange (m.writeCell i v) (i + 1) vs

/-- The canonical form from index lo on: indices strictly rising and below the bound, no entry 0. -/
def Memory.wfFrom {w : Nat} (bound : Nat) : Nat → Memory w → Bool
  | _, [] => true
  | lo, (k, v) :: m => decide (lo ≤ k) && decide (k < bound) && decide (v ≠ 0) && Memory.wfFrom bound (k + 1) m

/-- The canonical form of a buffer whose indices are below the bound. -/
def Memory.wf {w : Nat} (bound : Nat) (m : Memory w) : Bool := Memory.wfFrom bound 0 m

/-- `finish(code)` (R11): write STATUS.ERR and end the command. -/
def finish (c : Code) (s : State) : State := { s with err := c }

/-- `clear_results()` (R180). -/
def clearResults (s : State) : State :=
  { s with
    resDev := 0, resFn := 0, resAddr := 0, resVal := 0, resN := 0, resCrc := 0, resRxcrc := 0, regCount := 0
    regs := [], resValid := false }

/-- Accept a word: it becomes PENDING, so BUSY reads 1 (R34, R64). How many host accesses come before the engine's step
is a free value (R61; log 2). -/
def acceptWord (v : Word) (s : State) : State :=
  { s with pending := some v, latency := Config.latency s.accepted, accepted := s.accepted + 1 }

/-- Every piece of the block's state at its reset value (R37, R270): SRST and power-on reset alike. P_RX_CAP stays
(R221), and so does what is the host's own. -/
def blockReset (s : State) : State :=
  { State.resetWith s.rxCap with
    accepted := s.accepted, draws := s.draws, host := s.host, reads := s.reads }

end Sys2Proof.Machine
end

