-- ==== Sys2Proof/Machine/Control.lean ====
section
/-! DEFINITION. The control commands (44_control.md): NOP, SRST. -/

namespace Sys2Proof.Machine

/-- NOP (R220). -/
def execNop (s : State) : Host.Outcome State Fault Refusal := .next (finish .ok s)

/-- SRST (R221): a pending command is discarded unperformed, and the block is as after power-on (R270, R271). -/
def execSrst (s : State) : Host.Outcome State Fault Refusal := .next (blockReset s)

end Sys2Proof.Machine
end

