-- ==== Sys2Proof/Machine/Operands.lean ====
section
/-! DEFINITION. What the commands take their operands from (R91), and the byte order of frames (R9, R74). -/

namespace Sys2Proof.Machine

/-- `hi8(n) = (n >> 8) & 0xFF` (R9). -/
def hi8 (n : Half) : Byte := (n >>> 8).setWidth 8

/-- `lo8(n) = n & 0xFF` (R9). -/
def lo8 (n : Half) : Byte := n.setWidth 8

/-- Two bytes, the high one first: `zext_16(b0) << 8 | zext_16(b1)` (R186, R187). -/
def be16 (b0 b1 : Byte) : Half := b0.setWidth 16 <<< 8 ||| b1.setWidth 16

/-- Two bytes, the low one first: `zext_16(b0) | zext_16(b1) << 8` (R183). -/
def le16 (b0 b1 : Byte) : Half := b0.setWidth 16 ||| b1.setWidth 16 <<< 8

/-- `RX[0..RX_LEN)` (R25). -/
def rxBytes (s : State) : List Byte := s.rx.readRange 0 s.rxLen.toNat

/-- `TX[0..TX_LEN)`, what LOOPBACK copies (R160) and the transport sends (R75, R279). -/
def txBytes (s : State) : List Byte := s.tx.readRange 0 s.txLen.toNat

/-- R142: some operand of ENCODE has a bit above its field. -/
def operandOutOfRange (s : State) : Bool :=
  decide (s.opDev > 0xFF#32) || decide (s.opFn > 0xFF#32) || decide (s.opAddr > 0xFFFF#32) || decide (s.opVal > 0xFFFF#32)

end Sys2Proof.Machine
end

