-- ==== Sys2Proof/Machine/Crc.lean ====
section
/-! DEFINITION. The CRC-16/Modbus generator (40_crc.md): CRC_INIT, CRC_BYTE, CRC_RX. -/

namespace Sys2Proof.Machine

/-- The polynomial (R120). -/
def crcPoly : Half := 0xA001

/-- The initial value of the accumulator (R121). -/
def crcInitial : Half := 0xFFFF

/-- One of the eight rounds of `crc_step`: bit 0 is tested before the logical shift (R120). -/
def crcShift (acc : Half) : Half := if acc.getLsbD 0 then (acc >>> 1) ^^^ crcPoly else acc >>> 1

/-- n rounds. -/
def crcShifts : Nat → Half → Half
  | 0, acc => acc
  | n + 1, acc => crcShifts n (crcShift acc)

/-- `crc_step(acc, b)` (R120). -/
def crcStep (acc : Half) (b : Byte) : Half := crcShifts 8 (acc ^^^ b.setWidth 16)

/-- `crc16(s)` (R121). -/
def crc16 (bytes : List Byte) : Half := bytes.foldl crcStep crcInitial

/-- CRC_INIT (R122). -/
def execCrcInit (s : State) : Host.Outcome State Fault Refusal :=
  .next (finish .ok { s with crcAcc := crcInitial })

/-- CRC_BYTE b (R123). -/
def execCrcByte (b : Byte) (s : State) : Host.Outcome State Fault Refusal :=
  .next (finish .ok { s with crcAcc := crcStep s.crcAcc b })

/-- CRC_RX (R124): the previous CRC_ACC is not used. -/
def execCrcRx (s : State) : Host.Outcome State Fault Refusal :=
  .next (finish .ok { s with crcAcc := crc16 (rxBytes s) })

end Sys2Proof.Machine
end

