-- ==== Sys2Proof/Machine/FrameDecode.lean ====
section
/-! DEFINITION. The frame decoder and validator (43_decode.md): DECODE, PARSE. -/

namespace Sys2Proof.Machine

/-- The CRC the block computes: over the whole buffer but its last two bytes (R183). -/
def computedCrc (s : State) : Half := crc16 (s.rx.readRange 0 (s.rxLen.toNat - 2))

/-- The CRC the frame carries: its last two bytes, the low one first (R183). -/
def carriedCrc (s : State) : Half :=
  le16 (s.rx.readCell (s.rxLen.toNat - 2)) (s.rx.readCell (s.rxLen.toNat - 1))

/-- What the checksum step writes, for a frame of at least 3 bytes (R183). -/
def recordChecksum (s : State) : State :=
  { s with
    resDev := s.rx.readCell 0, resFn := s.rx.readCell 1, resCrc := computedCrc s, resRxcrc := carriedCrc s }

/-- The common steps of DECODE and PARSE (R180, R182, R183), and then what the command does with a frame whose CRC
matches. -/
def examine (body : State → State) (s : State) : State :=
  if s.rxLen.toNat < 3 then finish .frameTooShort (clearResults s)
  else if computedCrc s ≠ carriedCrc s then finish .checksumMismatch (recordChecksum (clearResults s))
  else body (recordChecksum (clearResults s))

/-- The k registers of a read response's payload, big-endian, in order (R186). -/
def payloadRegisters (rx : Memory 8) (k : Nat) : List Half :=
  (List.range k).map fun j => be16 (rx.readCell (3 + 2 * j)) (rx.readCell (4 + 2 * j))

/-- `read_response()` once the length check has passed (R186): a trailing odd byte is dropped. -/
def extractRegisters (n : Nat) (s : State) : State :=
  finish .ok
    { s with
      regs := s.regs.writeRange 0 (payloadRegisters s.rx (n / 2)), regCount := BitVec.ofNat 7 (n / 2), resValid := true }

/-- `read_response()` (R185). -/
def readResponse (s : State) : State :=
  if s.rxLen.toNat < 3 + (s.rx.readCell 2).toNat + 2 then finish .truncatedPayload { s with resN := s.rx.readCell 2 }
  else extractRegisters (s.rx.readCell 2).toNat { s with resN := s.rx.readCell 2 }

/-- Address and value of an 8-byte frame, or LengthMismatch: `write_response()` (R187) and the end of PARSE (R190). -/
def addressAndValue (s : State) : State :=
  if s.rxLen.toNat ≠ 8 then finish .lengthMismatch s
  else finish .ok
    { s with
      resAddr := be16 (s.rx.readCell 2) (s.rx.readCell 3), resVal := be16 (s.rx.readCell 4) (s.rx.readCell 5)
      resValid := true }

/-- `other_response()` (R188): nothing is extracted. -/
def otherResponse (s : State) : State := finish .ok { s with resValid := true }

/-- DECODE's dispatch on the function code of the response, RX[1] (R181, R184). -/
def decodeResponse (s : State) : State :=
  if s.rx.readCell 1 = 0x03#8 ∨ s.rx.readCell 1 = 0x04#8 then readResponse s
  else if s.rx.readCell 1 = 0x06#8 then addressAndValue s
  else otherResponse s

/-- DECODE (R181). -/
def execDecode (s : State) : Host.Outcome State Fault Refusal := .next (examine decodeResponse s)

/-- PARSE (R190). -/
def execParse (s : State) : Host.Outcome State Fault Refusal := .next (examine addressAndValue s)

end Sys2Proof.Machine
end

