-- ==== Sys2Proof/Machine/FrameEncode.lean ====
section
/-! DEFINITION. The frame encoder (41_encode.md): ENCODE. -/

namespace Sys2Proof.Machine

/-- The six bytes of a request frame that its CRC covers (R140). -/
def frameBody (d f : Byte) (a v : Half) : List Byte := [d, f, hi8 a, lo8 a, hi8 v, lo8 v]

/-- `frame(d, f, a, v)` (R140): the body and its CRC, low byte first. -/
def frame (d f : Byte) (a v : Half) : List Byte :=
  frameBody d f a v ++ [lo8 (crc16 (frameBody d f a v)), hi8 (crc16 (frameBody d f a v))]

/-- The frame of the operand registers; used only where R142's range check has passed. -/
def operandFrame (s : State) : List Byte :=
  frame (s.opDev.setWidth 8) (s.opFn.setWidth 8) (s.opAddr.setWidth 16) (s.opVal.setWidth 16)

/-- ENCODE (R141). -/
def execEncode (s : State) : Host.Outcome State Fault Refusal :=
  .next (if operandOutOfRange s then finish .encodingError { s with txLen := 0 }
    else finish .ok { s with tx := s.tx.writeRange 0 (operandFrame s), txLen := 8 })

end Sys2Proof.Machine
end

