-- ==== Sys2Proof/Machine/RxBuffer.lean ====
section
/-! DEFINITION. The receive buffer (42_rx_buffer.md): LOOPBACK, RX_CLEAR, RX_PUSH. -/

namespace Sys2Proof.Machine

/-- LOOPBACK (R160): RX[n..P_RX_CAP) unchanged. -/
def execLoopback (s : State) : Host.Outcome State Fault Refusal :=
  .next (finish .ok { s with rx := s.rx.writeRange 0 (txBytes s), rxLen := s.txLen.setWidth 10 })

/-- RX_CLEAR (R161): the bytes are not erased. -/
def execRxClear (s : State) : Host.Outcome State Fault Refusal :=
  .next (finish .ok { s with rxLen := 0 })

/-- RX_PUSH b (R162). -/
def execRxPush (b : Byte) (s : State) : Host.Outcome State Fault Refusal :=
  .next (if s.rxLen.toNat = s.rxCap then finish .bufferFull s
    else finish .ok { s with rx := s.rx.writeCell s.rxLen.toNat b, rxLen := s.rxLen + 1 })

end Sys2Proof.Machine
end

