-- ==== Sys2Proof/Machine/Dispatch.lean ====
section
/-! DEFINITION. The meaning of each command: one arm per constructor of Instr. -/

namespace Sys2Proof.Machine

/-- What performing a command does (R95). -/
def exec (i : Instr) (s : State) : Host.Outcome State Fault Refusal :=
  match i with
  | .nop => Sys2Proof.Machine.execNop s
  | .crcInit => Sys2Proof.Machine.execCrcInit s
  | .crcByte b => Sys2Proof.Machine.execCrcByte b s
  | .crcRx => Sys2Proof.Machine.execCrcRx s
  | .encode => Sys2Proof.Machine.execEncode s
  | .loopback => Sys2Proof.Machine.execLoopback s
  | .rxClear => Sys2Proof.Machine.execRxClear s
  | .rxPush b => Sys2Proof.Machine.execRxPush b s
  | .decode => Sys2Proof.Machine.execDecode s
  | .parse => Sys2Proof.Machine.execParse s
  | .srst => Sys2Proof.Machine.execSrst s

end Sys2Proof.Machine
end

