-- ==== Sys2Proof/Machine/Flags.lean ====
section
/-! DEFINITION. STATUS: its flags, its code field and the word a read returns (R29 to R32, R240). The block has no other
flag and no condition code (R38). -/

namespace Sys2Proof.Machine

/-- The number of a status code (R240). -/
def Code.number : Code → BitVec 4
  | .ok => 0
  | .encodingError => 1
  | .frameTooShort => 2
  | .checksumMismatch => 3
  | .truncatedPayload => 4
  | .lengthMismatch => 5
  | .bufferFull => 6
  | .illegalCommand => 7

/-- `STATUS.BUSY = (PENDING ≠ none)` (R30). -/
def busy (s : State) : Bool := s.pending.isSome

/-- A flag as a bit of a 32-bit word. -/
def flagBit (b : Bool) : Word := (BitVec.ofBool b).setWidth 32

/-- `zext_32(ERR << 4 | OVR << 2 | RES_VALID << 1 | BUSY)` (R63): bits 3 and 31:8 read 0 (R29). -/
def statusWord (s : State) : Word :=
  s.err.number.setWidth 32 <<< 4 ||| flagBit s.ovr <<< 2 ||| flagBit s.resValid <<< 1 ||| flagBit (busy s)

/-- A host write while BUSY was ignored (R32, R67). -/
def setOverrun (s : State) : State := { s with ovr := true }

/-- A write to STATUS: bit 2 clears OVR, every other bit is ignored (R32, R64). -/
def writeStatus (v : Word) (s : State) : State := if v.getLsbD 2 then { s with ovr := false } else s

end Sys2Proof.Machine
end

