-- ==== Sys2Proof/Machine/Bus.lean ====
section
/-! DEFINITION. The host bus (20_memory.md): the register map (R66), the admitted accesses (R65), host read (R63) and host
write (R64). Offsets are relative to P_BASE (R62; log 5). -/

namespace Sys2Proof.Machine

/-- The registers of the window (R66). -/
inductive Reg where
  | cmd
  | status
  | id
  | opDev
  | opFn
  | opAddr
  | opVal
  | crcAcc
  | txLen
  | rxLen
  | regCount
  | resDev
  | resFn
  | resAddr
  | resVal
  | resN
  | resCrc
  | resRxcrc
  | tx (i : Nat)
  | regs (j : Nat)
  | rx (i : Nat)
  deriving DecidableEq, Repr

/-- The offset of CMD (R66). -/
def cmdOffset : Nat := 0x000

/-- The offset of STATUS (R66). -/
def statusOffset : Nat := 0x004

/-- The offset of a register (R66). -/
def Reg.offset : Reg → Nat
  | .cmd => cmdOffset
  | .status => statusOffset
  | .id => 0x008
  | .opDev => 0x010
  | .opFn => 0x014
  | .opAddr => 0x018
  | .opVal => 0x01C
  | .crcAcc => 0x020
  | .txLen => 0x024
  | .rxLen => 0x028
  | .regCount => 0x02C
  | .resDev => 0x030
  | .resFn => 0x034
  | .resAddr => 0x038
  | .resVal => 0x03C
  | .resN => 0x040
  | .resCrc => 0x044
  | .resRxcrc => 0x048
  | .tx i => 0x080 + 4 * i
  | .regs j => 0x100 + 4 * j
  | .rx i => 0x400 + 4 * i

/-- Which registers a block of the given capacity has (R66). -/
def Reg.exists? (cap : Nat) : Reg → Bool
  | .tx i => decide (i < 8)
  | .regs j => decide (j < 127)
  | .rx i => decide (i < cap)
  | _ => true

/-- The rows of R66 that name one register each. -/
def namedRegs : List Reg :=
  [.cmd, .status, .id, .opDev, .opFn, .opAddr, .opVal, .crcAcc, .txLen, .rxLen, .regCount, .resDev, .resFn, .resAddr,
    .resVal, .resN, .resCrc, .resRxcrc]

/-- The register at an offset, none where the offset is unmapped (R66). -/
def regAt (cap off : Nat) : Option Reg :=
  if off % 4 ≠ 0 then none
  else match namedRegs.find? (fun r => r.offset == off) with
    | some r => some r
    | none =>
      if 0x080 ≤ off ∧ off < 0x080 + 4 * 8 then some (.tx ((off - 0x080) / 4))
      else if 0x100 ≤ off ∧ off < 0x100 + 4 * 127 then some (.regs ((off - 0x100) / 4))
      else if 0x400 ≤ off ∧ off < 0x400 + 4 * cap then some (.rx ((off - 0x400) / 4))
      else none

/-- The constant in ID (R33). -/
def idValue : Word := 0x4D420001

/-- What a register reads as when its value is exact, zero-extended to 32 bits (R63, R66). CMD reads 0 (R34), ID is
hard-wired (R33). -/
def readReg (s : State) : Reg → Word
  | .cmd => 0
  | .status => statusWord s
  | .id => idValue
  | .opDev => s.opDev
  | .opFn => s.opFn
  | .opAddr => s.opAddr
  | .opVal => s.opVal
  | .crcAcc => s.crcAcc.setWidth 32
  | .txLen => s.txLen.setWidth 32
  | .rxLen => s.rxLen.setWidth 32
  | .regCount => s.regCount.setWidth 32
  | .resDev => s.resDev.setWidth 32
  | .resFn => s.resFn.setWidth 32
  | .resAddr => s.resAddr.setWidth 32
  | .resVal => s.resVal.setWidth 32
  | .resN => s.resN.setWidth 32
  | .resCrc => s.resCrc.setWidth 32
  | .resRxcrc => s.resRxcrc.setWidth 32
  | .tx i => (s.tx.readCell i).setWidth 32
  | .regs j => (s.regs.readCell j).setWidth 32
  | .rx i => (s.rx.readCell i).setWidth 32

/-- The registers whose value is exact while BUSY, since no pending command writes them (R68). -/
def Reg.exactWhileBusy : Reg → Bool
  | .cmd | .status | .id | .opDev | .opFn | .opAddr | .opVal => true
  | _ => false

/-- The accesses that are not admitted (R65), each refused by name. -/
def refuseAccess (off nbytes : Nat) : Option Refusal :=
  if nbytes ≠ 4 then some (.accessWidth nbytes)
  else if off % 4 ≠ 0 then some (.misalignedAccess off)
  else if off > 0xFFC then some (.outsideWindow off)
  else none

/-- Whether reading an offset returns a free draw: BUSY, and a mapped register that is not exact then (R68). -/
def isDraw (s : State) (off : Nat) : Bool :=
  match regAt s.rxCap off with
  | none => false
  | some r => busy s && !r.exactWhileBusy

/-- What an admitted host read returns (R63): 0 at an unmapped offset (R69), a free draw where R68 says so. -/
def readValue (s : State) (off : Nat) : Word :=
  match regAt s.rxCap off with
  | none => 0
  | some r => if isDraw s off then Config.busyDraw s.draws else readReg s r

/-- An admitted host read: the value goes to the host. Nothing of the block changes (R63); a draw is a new one each
time (R68). -/
def memRead (off : Nat) (s : State) : State :=
  { s with reads := (off, readValue s off) :: s.reads, draws := if isDraw s off then s.draws + 1 else s.draws }

/-- An admitted host write to a mapped register other than STATUS while BUSY = 0 (R64). -/
def writeReg (v : Word) (s : State) : Reg → State
  | .cmd => acceptWord v s
  | .opDev => { s with opDev := v }
  | .opFn => { s with opFn := v }
  | .opAddr => { s with opAddr := v }
  | .opVal => { s with opVal := v }
  | _ => s

/-- An admitted host write (R64), in R64's order: the SRST word at CMD whatever BUSY is, then STATUS, then unmapped offsets
(R69), then the overrun (R67). -/
def memWrite (off : Nat) (v : Word) (s : State) : Host.Outcome State Fault Refusal :=
  if off = cmdOffset ∧ v = srstWord then exec .srst s
  else if off = statusOffset then .next (writeStatus v s)
  else match regAt s.rxCap off with
    | none => .next s
    | some r => .next (if busy s then setOverrun s else writeReg v s r)

end Sys2Proof.Machine
end

