-- ==== Sys2Proof/Machine/Agents.lean ====
section
/-! DEFINITION. The two agents (R60): the engine's step (R61, R95) and the host's. -/

namespace Sys2Proof.Machine

/-- `perform(w)` (R95). An illegal word ends with IllegalCommand (R96). SRST acts at the CMD write and never becomes
pending (R94), so R95's dispatch has no case for its word, which falls under "otherwise" (log 9). -/
def perform (w : Word) (s : State) : Host.Outcome State Fault Refusal :=
  match decode w with
  | .ok .srst => .next (finish .illegalCommand s)
  | .ok i => exec i s
  | .error _ => .next (finish .illegalCommand s)

/-- PENDING becomes none (R61), and the countdown that went with it is over (log 2). -/
def clearPending (s : State) : State := { s with pending := none, latency := 0 }

/-- `engine_step()` (R61), one indivisible transition. -/
def engineStep (w : Word) (s : State) : Host.Outcome State Fault Refusal :=
  andThen (perform w s) fun t => .next (clearPending t)

/-- One host access (R63, R64, R65), one turn of the poll loop (R98), or the power-on reset (R270). A poll that finds
BUSY = 1 stays at the head of what the host has to do. -/
def hostStep (s : State) : Host.Outcome State Fault Refusal :=
  match s.host with
  | [] => .next s
  | .rd off n :: rest =>
    match refuseAccess off n with
    | some r => .refused r
    | none => .next (memRead off { s with host := rest })
  | .wr off n v :: rest =>
    match refuseAccess off n with
    | some r => .refused r
    | none => memWrite off v { s with host := rest }
  | .poll :: rest => .next (if busy s then s else { s with host := rest })
  | .powerOn :: rest => .next (blockReset { s with host := rest })

/-- Whether the engine moves next: a word is pending and either the host accesses that come before it are done or the
host has nothing to do (R61; log 2). -/
def engineTurn (s : State) : Option Word :=
  match s.pending with
  | some w => if s.latency = 0 ∨ s.host = [] then some w else none
  | none => none

/-- One step of the two agents in their one total order (R71): the engine's when it is its turn, else the host's. With
nothing pending and nothing for the host to do, the block is idle and stays as it is (R272; log 11). -/
def agentStep (s : State) : Host.Outcome State Fault Refusal :=
  match engineTurn s with
  | some w => engineStep w s
  | none => hostStep { s with latency := s.latency - 1 }

/-- The next command is the one with this word: SRST as the host's next write to CMD (R94), any other word as the
pending one, with the engine to move (log 19). -/
def placeWord (w : Word) (s : State) : State :=
  if w = srstWord then { s with host := .wr cmdOffset 4 w :: s.host, latency := s.latency + 1 }
  else { s with pending := some w, latency := 0 }

end Sys2Proof.Machine
end

