-- ==== Sys2Proof/Machine/Step.lean ====
section
/-! DEFINITION. The step of the machine, and how a command is placed before it. -/

namespace Sys2Proof.Machine

/-- One step: the engine's or the host's (R60, R61, R71). -/
def step (s : State) : Host.Outcome State Fault Refusal := agentStep s

/-- The state in which the very next step runs the command of this word (log 10, log 19). -/
def State.withFetchWord (s : State) (nbits w : Nat) : State := placeWord (tableWord nbits w) s

end Sys2Proof.Machine
end

