-- ==== Sys2Proof/Machine/HostProgram.lean ====
section
/-! DEFINITION. The host's assembler (R98, R99): statements, command mnemonics and pseudo-instructions, and the bus
accesses each stands for. -/

namespace Sys2Proof.Machine

/-- The statements of R98 and the mnemonics and pseudo-instructions of R99. Numbers are as written in a program, so that
one that does not fit can be told. -/
inductive Stmt where
  | wr (r : Reg) (imm : Nat)
  | rd (r : Reg)
  | poll
  | nop
  | crcInit
  | crcByte (b : Nat)
  | crcRx
  | encode
  | loopback
  | rxClear
  | rxPush (b : Nat)
  | decode
  | parse
  | srst
  | crcSeq (bs : List Nat)
  | rxLoad (bs : List Nat)
  | setop (d f a v : Nat)
  | clrovr
  | frame (d f a v : Nat)
  deriving DecidableEq, Repr

/-- What the assembler rejects. -/
inductive AsmError where
  /-- A byte operand above 255: an error, never a silent truncation (R99). -/
  | byteOutOfRange (b : Nat)
  /-- An imm32 that does not fit in 32 bits (log 16). -/
  | wordOutOfRange (n : Nat)
  /-- An index that the block does not have (R66; log 16). -/
  | noSuchRegister (r : Reg)
  deriving DecidableEq, Repr

/-- A byte operand (R99). -/
def asmByte (b : Nat) : Except AsmError Byte := if b < 256 then .ok (BitVec.ofNat 8 b) else .error (.byteOutOfRange b)

/-- An imm32 (R98). -/
def asmWord (n : Nat) : Except AsmError Word :=
  if n < 0x100000000 then .ok (BitVec.ofNat 32 n) else .error (.wordOutOfRange n)

/-- A command mnemonic: `wr CMD, <word>` and then `poll` (R99). -/
def asmCommand (i : Instr) : List HostEvent := [.wr cmdOffset 4 (encode i), .poll]

/-- A command with a byte operand (R99). -/
def asmByteCommand (f : Byte → Instr) (b : Nat) : Except AsmError (List HostEvent) := do
  let b ← asmByte b
  .ok (asmCommand (f b))

/-- A byte command for each byte of a list, in order (R99). DESIGN CHOICE: the empty list is taken and gives no command, so
`crc.seq` and `rx.load` of it are `crc.init` and `rx.clear` alone; R99 writes at least b0 and does not say (log 16). -/
def asmByteCommands (f : Byte → Instr) : List Nat → Except AsmError (List HostEvent)
  | [] => .ok []
  | b :: bs => do
    let first ← asmByteCommand f b
    let rest ← asmByteCommands f bs
    .ok (first ++ rest)

/-- `wr NAME, imm32` (R98). -/
def asmWrite (cap : Nat) (r : Reg) (n : Nat) : Except AsmError (List HostEvent) := do
  let v ← asmWord n
  if r.exists? cap then .ok [.wr r.offset 4 v] else .error (.noSuchRegister r)

/-- `setop d, f, a, v` (R99). -/
def asmSetop (cap d f a v : Nat) : Except AsmError (List HostEvent) := do
  let e1 ← asmWrite cap .opDev d
  let e2 ← asmWrite cap .opFn f
  let e3 ← asmWrite cap .opAddr a
  let e4 ← asmWrite cap .opVal v
  .ok (e1 ++ e2 ++ e3 ++ e4)

/-- The accesses of one statement, for a block of the given capacity (R98, R99). SRST is immediate and needs no poll. -/
def assemble (cap : Nat) : Stmt → Except AsmError (List HostEvent)
  | .wr r imm => asmWrite cap r imm
  | .rd r => if r.exists? cap then .ok [.rd r.offset 4] else .error (.noSuchRegister r)
  | .poll => .ok [.poll]
  | .nop => .ok (asmCommand .nop)
  | .crcInit => .ok (asmCommand .crcInit)
  | .crcByte b => asmByteCommand .crcByte b
  | .crcRx => .ok (asmCommand .crcRx)
  | .encode => .ok (asmCommand .encode)
  | .loopback => .ok (asmCommand .loopback)
  | .rxClear => .ok (asmCommand .rxClear)
  | .rxPush b => asmByteCommand .rxPush b
  | .decode => .ok (asmCommand .decode)
  | .parse => .ok (asmCommand .parse)
  | .srst => .ok [.wr cmdOffset 4 (encode .srst)]
  | .crcSeq bs => do
    let rest ← asmByteCommands .crcByte bs
    .ok (asmCommand .crcInit ++ rest)
  | .rxLoad bs => do
    let rest ← asmByteCommands .rxPush bs
    .ok (asmCommand .rxClear ++ rest)
  | .setop d f a v => asmSetop cap d f a v
  | .clrovr => .ok [.wr statusOffset 4 0x00000004#32]
  | .frame d f a v => do
    let ops ← asmSetop cap d f a v
    .ok (ops ++ asmCommand .encode)

/-- A host program: its statements in order (R98). -/
def assembleAll (cap : Nat) : List Stmt → Except AsmError (List HostEvent)
  | [] => .ok []
  | p :: ps => do
    let first ← assemble cap p
    let rest ← assembleAll cap ps
    .ok (first ++ rest)

end Sys2Proof.Machine
end

