-- ==== Sys2Proof/Safety.lean ====
section
/-! DEFINITION. The terms the claims use: the invariant of the block, runs of commands, admitted host events, what stale
bytes are, and the catalogue's description of the CRC. -/

namespace Sys2Proof.Machine

/-- The three buffers are in canonical form, inside their capacities (R20), and REGS[j] is 0 for every j from REG_COUNT
on (R27). -/
abbrev State.BuffersCanonical (s : State) : Prop :=
  s.tx.wf 8 = true ∧ s.rx.wf s.rxCap = true ∧ s.regs.wf s.regCount.toNat = true

/-- P_RX_CAP is legal (R7), RX_LEN is at most P_RX_CAP (R25), TX_LEN is 0 or 8 (R24). -/
abbrev State.LengthsInRange (s : State) : Prop :=
  Config.rxCapMin ≤ s.rxCap ∧ s.rxCap ≤ Config.rxCapMax ∧ s.rxLen.toNat ≤ s.rxCap ∧ (s.txLen = 0 ∨ s.txLen = 8)

/-- TX_LEN is 8 only when TX holds a frame as ENCODE builds it (R24, R140). -/
abbrev State.TxHoldsFrame (s : State) : Prop :=
  s.txLen = 8 →
    s.tx.readRange 0 8 =
      frame (s.tx.readCell 0) (s.tx.readCell 1) (be16 (s.tx.readCell 2) (s.tx.readCell 3))
        (be16 (s.tx.readCell 4) (s.tx.readCell 5))

/-- The result registers fit RES_VALID (R26, R27, R28, R31): an accepted frame has a matching CRC and floor(RES_N / 2)
registers, and without one there are no registers, no address and no value. -/
abbrev State.ResultsConsistent (s : State) : Prop :=
  (s.resValid = true → s.resCrc = s.resRxcrc ∧ s.regCount.toNat = s.resN.toNat / 2) ∧
    (s.resValid = false → s.regCount = 0 ∧ s.resAddr = 0 ∧ s.resVal = 0)

/-- The SRST word never becomes PENDING (R94), and with nothing pending no host access is counted (log 2). -/
abbrev State.PortConsistent (s : State) : Prop :=
  s.pending ≠ some srstWord ∧ (s.pending = none → s.latency = 0)

/-- The invariant of the machine. -/
abbrev State.Inv (s : State) : Prop :=
  s.BuffersCanonical ∧ s.LengthsInRange ∧ s.TxHoldsFrame ∧ s.ResultsConsistent ∧ s.PortConsistent

/-- A word that performs as IllegalCommand: ERR becomes 7 and nothing else changes (R96). -/
abbrev reportsIllegal (w : Word) : Prop := ∀ s : State, perform w s = .next { s with err := .illegalCommand }

/-- Commands performed one after the other, each in the state the one before it leaves. -/
def execAll : List Instr → State → Host.Outcome State Fault Refusal
  | [], s => .next s
  | i :: is, s => andThen (exec i s) (execAll is)

/-- Host writes of registers one after the other. -/
def writeAll : List (Nat × Word) → State → Host.Outcome State Fault Refusal
  | [], s => .next s
  | (off, v) :: ws, s => andThen (memWrite off v s) (writeAll ws)

/-- A host event the block admits (R65). -/
def HostEvent.admitted : HostEvent → Bool
  | .rd off n => (refuseAccess off n).isNone
  | .wr off n _ => (refuseAccess off n).isNone
  | .poll => true
  | .powerOn => true

/-- A write whose SRST word resets the block (R94), or the power-on reset (R270). -/
def HostEvent.resets : HostEvent → Bool
  | .wr off n v => n == 4 && off == cmdOffset && v == srstWord
  | .powerOn => true
  | _ => false

/-- Two states that differ at most in leftover bytes: RX at or above RX_LEN, TX at or above TX_LEN (R280). -/
def SameButStale (s t : State) : Prop :=
  t = { s with rx := t.rx, tx := t.tx } ∧
    (∀ i, i < s.rxLen.toNat → t.rx.readCell i = s.rx.readCell i) ∧
    ∀ i, i < s.txLen.toNat → t.tx.readCell i = s.tx.readCell i

/-- The state with one bit of one byte of RX flipped (R191). -/
def flipRxBit (i k : Nat) (s : State) : State :=
  { s with rx := s.rx.writeCell i (s.rx.readCell i ^^^ (1#8 <<< k)) }

/-- One round of the catalogue's CRC, most significant bit first, polynomial 0x8005 (R126). -/
def catalogueShift (acc : Half) : Half := if acc.getLsbD 15 then (acc <<< 1) ^^^ 0x8005#16 else acc <<< 1

/-- The catalogue's CRC-16/MODBUS (R126): width 16, polynomial 0x8005, initial value 0xFFFF, each input byte and the
result bit-reversed, final XOR 0x0000. -/
def catalogueCrc (bytes : List Byte) : Half :=
  BitVec.reverse
    (bytes.foldl
      (fun acc b => Nat.iterate catalogueShift 8 (acc ^^^ (BitVec.reverse b).setWidth 16 <<< 8)) 0xFFFF#16)
    ^^^ 0x0000#16

end Sys2Proof.Machine
end

