-- ==== Sys2Proof/Certificates/Slice0/Obligations.lean ====
section
/-! DEFINITION. The statements about the model, each from a rule of spec/ or derived from its sections. -/

open Sys2Proof Sys2Proof.Machine

/-! ### Reset -/

/-- R37: every row of the reset table (at every capacity), the default capacity of State.reset (R7), and "at power-on
reset and at SRST alike": both leave exactly that state, beside what is the host's own. -/
def Obligations.ResetTableAtPowerOnAndSrst : Prop :=
  (∀ cap : Nat,
    let r := State.resetWith cap
    r.opDev = 0x00000000#32 ∧ r.opFn = 0x00000000#32 ∧ r.opAddr = 0x00000000#32 ∧ r.opVal = 0x00000000#32 ∧
    r.crcAcc = 0xFFFF#16 ∧ (∀ i, r.tx.readCell i = 0x00#8) ∧ r.txLen = 0 ∧ (∀ i, r.rx.readCell i = 0x00#8) ∧
    r.rxLen = 0 ∧ r.resDev = 0x00#8 ∧ r.resFn = 0x00#8 ∧ r.resN = 0x00#8 ∧ r.resAddr = 0x0000#16 ∧
    r.resVal = 0x0000#16 ∧ r.resCrc = 0x0000#16 ∧ r.resRxcrc = 0x0000#16 ∧ r.regCount = 0 ∧
    (∀ j, r.regs.readCell j = 0x0000#16) ∧ statusWord r = 0x00000000#32 ∧ readReg r .id = 0x4D420001#32 ∧
    r.pending = none) ∧
  State.reset = State.resetWith 260 ∧
  (∀ s : State, exec .srst s =
    .next { State.resetWith s.rxCap with
      host := s.host, reads := s.reads, draws := s.draws, accepted := s.accepted }) ∧
  ∀ (s : State) (rest : List HostEvent), s.host = .powerOn :: rest → hostStep s = exec .srst { s with host := rest }

/-- R271: a reset, SRST or power-on, that arrives while a word is pending discards it: no part of that command's effect is
in the state after, whatever the word was. That it arrives before the engine's step is `0 < s.latency` (log 2). -/
def Obligations.ResetWhileBusyDiscardsPending : Prop :=
  ∀ (s : State) (w : Word) (e : HostEvent) (rest : List HostEvent), s.pending = some w → 0 < s.latency →
    s.host = e :: rest → e.resets = true →
    ∃ t, step s = .next t ∧ t.pending = none ∧ step { s with pending := none } = .next t ∧
      t = { State.resetWith s.rxCap with
        host := rest, reads := s.reads, draws := s.draws, accepted := s.accepted }

/-- R221: SRST is the exact word, acts inside the CMD write whatever BUSY is, and leaves STATUS 0. Nothing but a reset takes a
pending command off the port unperformed (beside SRST, the power-on reset, R271). -/
def Obligations.SoftResetInsideTheCmdWrite : Prop :=
  encode .srst = 0x000000FF#32 ∧
  (∀ (s t : State) (w : Word), step s = .next t → s.pending = some w → t.pending ≠ some w →
    engineTurn s = some w ∨ (engineTurn s = none ∧ ∃ e rest, s.host = e :: rest ∧ e.resets = true)) ∧
  ∀ s : State, ∃ t, memWrite 0x000 0x000000FF#32 s = .next t ∧ exec .srst s = .next t ∧ t.pending = none ∧
    statusWord t = 0x00000000#32 ∧
    t = { State.resetWith s.rxCap with
      host := s.host, reads := s.reads, draws := s.draws, accepted := s.accepted }

/-! ### Encoding and dispatch -/

/-- R93: the word column of the opcode map. -/
def Obligations.OpcodeMapWords : Prop :=
  encode .nop = 0x00000000#32 ∧ encode .crcInit = 0x00000001#32 ∧
  (∀ b : Byte, encode (.crcByte b) = 0x00000002#32 ||| b.setWidth 32 <<< 8) ∧
  encode .crcRx = 0x00000003#32 ∧ encode .encode = 0x00000010#32 ∧ encode .loopback = 0x00000011#32 ∧
  encode .rxClear = 0x00000020#32 ∧ (∀ b : Byte, encode (.rxPush b) = 0x00000021#32 ||| b.setWidth 32 <<< 8) ∧
  encode .decode = 0x00000030#32 ∧ encode .parse = 0x00000031#32 ∧ encode .srst = 0x000000FF#32

/-- A few words written out from R93 decode to the commands they stand for. -/
def Obligations.SampleWordsDecode : Prop :=
  decode 0x00000000#32 = .ok .nop ∧ decode 0x00000001#32 = .ok .crcInit ∧ decode 0x0000FF02#32 = .ok (.crcByte 0xFF#8) ∧
  decode 0x00000010#32 = .ok .encode ∧ decode 0x00000121#32 = .ok (.rxPush 0x01#8) ∧
  decode 0x00000030#32 = .ok .decode ∧ decode 0x000000FF#32 = .ok .srst

/-- Decoding and encoding are inverse: a word decodes to a command exactly when it is that command's word. So no operand
bit is lost, no two commands share a word, and every word has at most one command. -/
def Obligations.DecodeIffEncode : Prop :=
  ∀ (w : Word) (i : Instr), decode w = .ok i ↔ w = encode i

/-- R96: the decoder (written from R95) turns away exactly the words of R96's list, which are also the words that the checks
of WellFormed.lean refuse, and performing one writes ERR 7 and nothing else. -/
def Obligations.IllegalWordsReportAndChangeNothing : Prop :=
  ∀ w : Word,
    ((∃ e, decode w = .error e) ↔
      rsvField w ≠ 0#16 ∨
      opcField w ∉ [0x00#8, 0x01#8, 0x02#8, 0x03#8, 0x10#8, 0x11#8, 0x20#8, 0x21#8, 0x30#8, 0x31#8, 0xFF#8] ∨
      (opcField w ≠ 0x02#8 ∧ opcField w ≠ 0x21#8 ∧ opcField w ≠ 0xFF#8 ∧ immField w ≠ 0#8) ∨
      (opcField w = 0xFF#8 ∧ w ≠ 0x000000FF#32)) ∧
    (legalWord w = false ↔ ∃ e, decode w = .error e) ∧
    ((∃ e, decode w = .error e) → ∀ s : State, perform w s = .next { s with err := .illegalCommand })

/-- R94: only the exact word is SRST, recognised at the CMD write, and never pending; another word with OPC 0xFF is
accepted and performs as IllegalCommand. -/
def Obligations.SrstOnlyAsExactWord : Prop :=
  (∀ s t : State, memWrite 0x000 0x000000FF#32 s = .next t → t.pending = none) ∧
  (∀ w : Word, opcField w = 0xFF#8 → w ≠ 0x000000FF#32 →
    (∀ s : State, s.pending = none → ∃ t, memWrite 0x000 w s = .next t ∧ t.pending = some w) ∧ reportsIllegal w) ∧
  ∀ s t : State, step s = .next t → s.pending ≠ some 0x000000FF#32 → t.pending ≠ some 0x000000FF#32

/-- R95: what the engine runs for a word, field by field, in R95's order. -/
def Obligations.PerformDispatch : Prop :=
  ∀ (w : Word) (s : State),
    let opc := w.extractLsb' 0 8
    let imm := w.extractLsb' 8 8
    let illegal : Host.Outcome State Fault Refusal := .next { s with err := .illegalCommand }
    (w.extractLsb' 16 16 ≠ 0#16 → perform w s = illegal) ∧
    (w.extractLsb' 16 16 = 0#16 →
      (opc = 0x02#8 → perform w s = exec (.crcByte imm) s) ∧ (opc = 0x21#8 → perform w s = exec (.rxPush imm) s) ∧
      (opc ∈ [0x00#8, 0x01#8, 0x03#8, 0x10#8, 0x11#8, 0x20#8, 0x30#8, 0x31#8] → imm ≠ 0#8 → perform w s = illegal) ∧
      (opc = 0x00#8 → imm = 0#8 → perform w s = exec .nop s) ∧
      (opc = 0x01#8 → imm = 0#8 → perform w s = exec .crcInit s) ∧
      (opc = 0x03#8 → imm = 0#8 → perform w s = exec .crcRx s) ∧
      (opc = 0x10#8 → imm = 0#8 → perform w s = exec .encode s) ∧
      (opc = 0x11#8 → imm = 0#8 → perform w s = exec .loopback s) ∧
      (opc = 0x20#8 → imm = 0#8 → perform w s = exec .rxClear s) ∧
      (opc = 0x30#8 → imm = 0#8 → perform w s = exec .decode s) ∧
      (opc = 0x31#8 → imm = 0#8 → perform w s = exec .parse s) ∧
      (opc ∉ [0x00#8, 0x01#8, 0x02#8, 0x03#8, 0x10#8, 0x11#8, 0x20#8, 0x21#8, 0x30#8, 0x31#8] →
        perform w s = illegal))

/-! ### Steps -/

/-- A step of the engine runs the decoded pending word and makes PENDING none (R61). The countdown `latency` that says
when the engine moves is the model's own (log 2). -/
def Obligations.EngineStepRunsPendingCommand : Prop :=
  ∀ (s : State) (w : Word), s.pending = some w → (s.latency = 0 ∨ s.host = []) →
    (∀ i t, decode w = .ok i → i ≠ .srst → exec i s = .next t →
      step s = .next { t with pending := none, latency := 0 }) ∧
    (∀ e, decode w = .error e →
      step s = .next { s with err := .illegalCommand, pending := none, latency := 0 })

/-- A step of the host performs its next access: a read logs its value, a write is memWrite (so the SRST word at CMD runs
exec .srst), a poll waits for BUSY = 0; with nothing to do and nothing pending the state stays. That the accesses stand in
a queue of State, and `latency`, are the model's own (log 2, log 10, log 11). -/
def Obligations.HostStepRunsNextAccess : Prop :=
  ∀ s : State, (s.pending = none ∨ (0 < s.latency ∧ s.host ≠ [])) →
    (s.host = [] → s.latency = 0 → step s = .next s) ∧
    ∀ rest : List HostEvent,
      (∀ off, s.host = .rd off 4 :: rest → off % 4 = 0 → off ≤ 0xFFC →
        step s = .next (memRead off { s with host := rest, latency := s.latency - 1 })) ∧
      (∀ off v, s.host = .wr off 4 v :: rest → off % 4 = 0 → off ≤ 0xFFC →
        step s = memWrite off v { s with host := rest, latency := s.latency - 1 }) ∧
      (s.host = .wr 0x000 4 0x000000FF#32 :: rest →
        step s = exec .srst { s with host := rest, latency := s.latency - 1 }) ∧
      (s.host = .poll :: rest → s.pending = none → step s = .next { s with host := rest, latency := s.latency - 1 }) ∧
      (s.host = .poll :: rest → s.pending ≠ none → step s = .next { s with latency := s.latency - 1 })

/-- R65: a step is refused exactly when it is the host's turn and its next access is not a 32-bit access at a multiple of 4
inside the window; every other step answers a next state, and none faults. -/
def Obligations.RefusedExactlyWhenNotAdmitted : Prop :=
  ∀ s : State,
    ((∃ r, step s = .refused r) ↔
      engineTurn s = none ∧
        ∃ off n rest, (s.host = .rd off n :: rest ∨ ∃ v, s.host = .wr off n v :: rest) ∧
          (n ≠ 4 ∨ off % 4 ≠ 0 ∨ 0xFFC < off)) ∧
    ((∃ r, step s = .refused r) ∨ ∃ t, step s = .next t)

/-- Every command answers a next state, in every state, and none but SRST touches PENDING, OVR or what is the
environment's. -/
def Obligations.EveryCommandCompletes : Prop :=
  ∀ (i : Instr) (s : State), ∃ t, exec i s = .next t ∧ t.rxCap = s.rxCap ∧ t.host = s.host ∧ t.reads = s.reads ∧
    t.draws = s.draws ∧ t.accepted = s.accepted ∧
    (i ≠ .srst → t.pending = s.pending ∧ t.latency = s.latency ∧ t.ovr = s.ovr)

/-- R20's "written by" column, for the commands: what none but the named commands write. -/
def Obligations.CommandsWriteOnlyTheirState : Prop :=
  ∀ (i : Instr) (s t : State), exec i s = .next t → i ≠ .srst →
    (t.opDev = s.opDev ∧ t.opFn = s.opFn ∧ t.opAddr = s.opAddr ∧ t.opVal = s.opVal) ∧
    (i ≠ .crcInit → i ≠ .crcRx → (∀ b, i ≠ .crcByte b) → t.crcAcc = s.crcAcc) ∧
    (i ≠ .encode → t.tx = s.tx ∧ t.txLen = s.txLen) ∧
    ((∀ b, i ≠ .rxPush b) → i ≠ .loopback → t.rx = s.rx) ∧
    ((∀ b, i ≠ .rxPush b) → i ≠ .loopback → i ≠ .rxClear → t.rxLen = s.rxLen) ∧
    (i ≠ .decode → i ≠ .parse →
      t.resDev = s.resDev ∧ t.resFn = s.resFn ∧ t.resAddr = s.resAddr ∧ t.resVal = s.resVal ∧ t.resN = s.resN ∧
      t.resCrc = s.resCrc ∧ t.resRxcrc = s.resRxcrc ∧ t.regCount = s.regCount ∧ t.regs = s.regs ∧
      t.resValid = s.resValid)

/-- R277: every command overwrites ERR, an illegal word and NOP included, and none reads it: the state after is the same
whatever code the command before left. -/
def Obligations.ErrDescribesOnlyTheLastCommand : Prop :=
  (∀ (i : Instr) (s : State) (c : Code), exec i { s with err := c } = exec i s) ∧
  ∀ (w : Word) (s : State) (c : Code), perform w { s with err := c } = perform w s

/-! ### Invariants -/

/-- The invariant holds right after reset, at every legal capacity. -/
def Obligations.ResetMeetsInvariant : Prop :=
  State.reset.Inv ∧ ∀ cap, 8 ≤ cap → cap ≤ 768 → (State.resetWith cap).Inv

/-- Every step of either agent keeps the invariant. -/
def Obligations.StepKeepsInvariant : Prop :=
  ∀ s t : State, s.Inv → step s = .next t → t.Inv

/-- A word that is pending is off the port after finitely many steps, however many host accesses come first: each step of
the host uses up one of the accesses that the free latency lets come before the engine's. The bound is the model's own
countdown (log 2). -/
def Obligations.PendingCommandLeavesThePort : Prop :=
  ∀ (s : State) (w : Word), s.pending = some w → (∀ e ∈ s.host, e.admitted = true) →
    ∃ n t, n ≤ s.latency + 1 ∧ core.run n s = .next t ∧ t.pending = none

/-- Writing a command's word to CMD in an idle block and then polling performs that command, whatever the latency: the
poll ends, and the block is as the command leaves it. -/
def Obligations.CommandMnemonicPerformsCommand : Prop :=
  ∀ (i : Instr) (s : State) (rest : List HostEvent), i ≠ .srst → s.pending = none →
    s.host = asmCommand i ++ rest →
    ∃ n t, exec i s = .next t ∧ core.run n s = .next { t with host := rest, latency := 0, accepted := s.accepted + 1 }

/-! ### The CRC generator -/

/-- R120: the eight rounds, bit 0 tested before the shift, and the rule's two examples. -/
def Obligations.CrcStepAlgorithm : Prop :=
  (∀ (acc : Half) (b : Byte),
    crcStep acc b =
      Nat.iterate (fun a : Half => if a.getLsbD 0 = true then (a >>> 1) ^^^ 0xA001#16 else a >>> 1) 8
        (acc ^^^ b.setWidth 16)) ∧
  crcStep 0xFFFF#16 0x01#8 = 0x807E#16 ∧ crcStep 0x0000#16 0x00#8 = 0x0000#16

/-- R121: the fold in wire order from 0xFFFF, and the rule's examples. -/
def Obligations.CrcOfSequence : Prop :=
  crc16 [] = 0xFFFF#16 ∧ (∀ (bytes : List Byte) (b : Byte), crc16 (bytes ++ [b]) = crcStep (crc16 bytes) b) ∧
  crc16 [0x01#8, 0x06#8, 0x00#8, 0x01#8, 0x00#8, 0x01#8] = 0xCA19#16 ∧ lo8 0xCA19#16 = 0x19#8 ∧ hi8 0xCA19#16 = 0xCA#8

/-- R122. -/
def Obligations.CrcInitSetsAccumulator : Prop :=
  encode .crcInit = 0x00000001#32 ∧
  (∀ w : Word, opcField w = 0x01#8 → w ≠ 0x00000001#32 → reportsIllegal w) ∧
  (∀ s : State, exec .crcInit s = .next { s with crcAcc := 0xFFFF#16, err := .ok }) ∧
  exec .crcInit State.reset = .next State.reset

/-- R123, its effect: one byte folded into CRC_ACC, nothing else but ERR written. -/
def Obligations.CrcByteFoldsOneByte : Prop :=
  (∀ b : Byte, encode (.crcByte b) = 0x00000002#32 ||| b.setWidth 32 <<< 8) ∧
  (∀ w : Word, opcField w = 0x02#8 → rsvField w ≠ 0#16 → reportsIllegal w) ∧
  ∀ (b : Byte) (s : State), exec (.crcByte b) s = .next { s with crcAcc := crcStep s.crcAcc b, err := .ok }

/-- R123, its law: CRC_INIT and then CRC_BYTE over a sequence leaves crc16 of the sequence in CRC_ACC. -/
def Obligations.StreamedCrcEqualsSequenceCrc : Prop :=
  ∀ (s : State) (bytes : List Byte),
    execAll (.crcInit :: bytes.map .crcByte) s = .next { s with crcAcc := crc16 bytes, err := .ok }

/-- R124: CRC_RX from any accumulator, over an empty buffer, and over one whose trailing CRC is correct. -/
def Obligations.CrcRxComputesBufferCrc : Prop :=
  encode .crcRx = 0x00000003#32 ∧
  (∀ w : Word, opcField w = 0x03#8 → w ≠ 0x00000003#32 → reportsIllegal w) ∧
  (∀ s : State, exec .crcRx s =
    .next { s with crcAcc := crc16 (s.rx.readRange 0 s.rxLen.toNat), err := .ok }) ∧
  (∀ s : State, s.rxLen = 0 → exec .crcRx s = .next { s with crcAcc := 0xFFFF#16, err := .ok }) ∧
  ∀ s : State, 2 ≤ s.rxLen.toNat → computedCrc s = carriedCrc s →
    exec .crcRx s = .next { s with crcAcc := 0x0000#16, err := .ok }

/-- The residue law of the CRC (40_crc.md section 3): a sequence followed by its own CRC, low byte first, folds to 0, and
no other two bytes after it do. -/
def Obligations.CrcResidueIsZero : Prop :=
  ∀ (bytes : List Byte) (b0 b1 : Byte),
    crc16 (bytes ++ [b0, b1]) = 0x0000#16 ↔ b0 = lo8 (crc16 bytes) ∧ b1 = hi8 (crc16 bytes)

/-- The identity with the catalogued CRC-16/MODBUS (40_crc.md section 3): the shift-right form with 0xA001 equals the
most-significant-bit-first form with 0x8005 and reflected input and output, and the check value is 0x4B37. -/
def Obligations.CrcEqualsCatalogue : Prop :=
  (∀ bytes : List Byte, crc16 bytes = catalogueCrc bytes) ∧
  crc16 [0x31#8, 0x32#8, 0x33#8, 0x34#8, 0x35#8, 0x36#8, 0x37#8, 0x38#8, 0x39#8] = 0x4B37#16

/-- Single-bit detection (40_crc.md section 3), at every length: a flipped bit changes the CRC. -/
def Obligations.CrcDetectsSingleBitError : Prop :=
  ∀ (pre post : List Byte) (b : Byte) (k : Nat), k < 8 →
    crc16 (pre ++ (b ^^^ (1#8 <<< k)) :: post) ≠ crc16 (pre ++ b :: post)

/-! ### The frame encoder -/

/-- R140: the layout of the request frame, always 8 bytes. -/
def Obligations.RequestFrameLayout : Prop :=
  ∀ (d f : Byte) (a v : Half),
    let p : List Byte :=
      [d, f, (a >>> 8).setWidth 8, a.setWidth 8, (v >>> 8).setWidth 8, v.setWidth 8]
    frame d f a v = p ++ [(crc16 p).setWidth 8, (crc16 p >>> 8).setWidth 8] ∧ (frame d f a v).length = 8

/-- R141, R142: ENCODE builds the frame of the operands when all four fit; otherwise it reports EncodingError, clears
TX_LEN and leaves TX as it is. -/
def Obligations.EncodeBuildsFrameOrRejects : Prop :=
  encode .encode = 0x00000010#32 ∧
  (∀ w : Word, opcField w = 0x10#8 → w ≠ 0x00000010#32 → reportsIllegal w) ∧
  (∀ s : State, (0xFF < s.opDev.toNat ∨ 0xFF < s.opFn.toNat ∨ 0xFFFF < s.opAddr.toNat ∨ 0xFFFF < s.opVal.toNat) →
    exec .encode s = .next { s with txLen := 0, err := .encodingError }) ∧
  ∀ (s : State) (d f : Byte) (a v : Half),
    s.opDev = d.setWidth 32 → s.opFn = f.setWidth 32 → s.opAddr = a.setWidth 32 → s.opVal = v.setWidth 32 →
    ∃ t, exec .encode s = .next t ∧ t.tx.readRange 0 8 = frame d f a v ∧
      (∀ i, 8 ≤ i → t.tx.readCell i = s.tx.readCell i) ∧ t = { s with tx := t.tx, txLen := 8, err := .ok }

/-- The round trip (41_encode.md, round-trip law): `setop d, f, a, v; encode; loopback; parse` gives the operands back, with
both CRCs that of TX; and an 8-byte RX that PARSE accepts re-encodes to the same 8 bytes. -/
def Obligations.FrameRoundTrip : Prop :=
  (∀ (s : State) (d f : Byte) (a v : Half), s.pending = none →
    ∃ t, andThen
        (writeAll [(0x010, d.setWidth 32), (0x014, f.setWidth 32), (0x018, a.setWidth 32), (0x01C, v.setWidth 32)] s)
        (execAll [.encode, .loopback, .parse]) = .next t ∧
      t.err = .ok ∧ t.resValid = true ∧ t.resDev = d ∧ t.resFn = f ∧ t.resAddr = a ∧ t.resVal = v ∧
      t.resCrc = t.resRxcrc ∧ t.resCrc = crc16 (t.tx.readRange 0 6)) ∧
  ∀ s t : State, s.rxLen = 8 → exec .parse s = .next t → t.err = .ok →
    frame t.resDev t.resFn t.resAddr t.resVal = s.rx.readRange 0 8

/-! ### The receive buffer -/

/-- R160: LOOPBACK copies TX[0..TX_LEN) and leaves the rest of RX, and TX, as they are. -/
def Obligations.LoopbackCopiesTx : Prop :=
  encode .loopback = 0x00000011#32 ∧
  (∀ w : Word, opcField w = 0x11#8 → w ≠ 0x00000011#32 → reportsIllegal w) ∧
  ∀ s : State, ∃ t, exec .loopback s = .next t ∧ t.rxLen.toNat = s.txLen.toNat ∧
    (∀ i, i < s.txLen.toNat → t.rx.readCell i = s.tx.readCell i) ∧
    (∀ i, s.txLen.toNat ≤ i → t.rx.readCell i = s.rx.readCell i) ∧
    t = { s with rx := t.rx, rxLen := t.rxLen, err := .ok }

/-- R161: RX_CLEAR sets RX_LEN to 0 and erases nothing. -/
def Obligations.RxClearKeepsBytes : Prop :=
  encode .rxClear = 0x00000020#32 ∧
  (∀ w : Word, opcField w = 0x20#8 → w ≠ 0x00000020#32 → reportsIllegal w) ∧
  ∀ s : State, exec .rxClear s = .next { s with rxLen := 0, err := .ok }

/-- R162: RX_PUSH appends its byte, or reports BufferFull at the capacity and drops it. -/
def Obligations.RxPushAppendsOrReportsFull : Prop :=
  (∀ b : Byte, encode (.rxPush b) = 0x00000021#32 ||| b.setWidth 32 <<< 8) ∧
  (∀ w : Word, opcField w = 0x21#8 → rsvField w ≠ 0#16 → reportsIllegal w) ∧
  (∀ (b : Byte) (s : State), s.rxLen.toNat = s.rxCap → exec (.rxPush b) s = .next { s with err := .bufferFull }) ∧
  ∀ (b : Byte) (s : State), s.rxLen.toNat < s.rxCap → s.rxCap ≤ 768 →
    ∃ t, exec (.rxPush b) s = .next t ∧ t.rxLen.toNat = s.rxLen.toNat + 1 ∧ t.rx.readCell s.rxLen.toNat = b ∧
      (∀ i, i ≠ s.rxLen.toNat → t.rx.readCell i = s.rx.readCell i) ∧
      t = { s with rx := t.rx, rxLen := t.rxLen, err := .ok }

/-- The loading law (42_rx_buffer.md): RX_CLEAR and a push of each byte of a sequence that fits leaves exactly that sequence
in RX; one byte more than fits reports BufferFull and leaves the first P_RX_CAP bytes. -/
def Obligations.LoadedBytesAreInRx : Prop :=
  ∀ (s : State) (bytes : List Byte), s.rxCap ≤ 768 → bytes.length ≤ s.rxCap →
    ∃ t, execAll (.rxClear :: bytes.map .rxPush) s = .next t ∧ rxBytes t = bytes ∧
      t.rxLen.toNat = bytes.length ∧ t.err = .ok ∧
      ∀ b : Byte, bytes.length = s.rxCap → execAll [.rxPush b] t = .next { t with err := .bufferFull }

/-! ### The frame decoder -/

/-- R180, R182, R183: the common steps of DECODE and PARSE. Too short: every result register is 0 (`regs := []` is REGS all
0). A wrong checksum: device, function and both CRCs are recorded, and nothing else. -/
def Obligations.CommonStepsOfDecodeAndParse : Prop :=
  ∀ (s : State) (i : Instr), i = .decode ∨ i = .parse →
    (s.rxLen.toNat < 3 →
      exec i s = .next { s with
        resDev := 0, resFn := 0, resAddr := 0, resVal := 0, resN := 0, resCrc := 0, resRxcrc := 0, regCount := 0
        regs := [], resValid := false, err := .frameTooShort }) ∧
    (3 ≤ s.rxLen.toNat →
      ∀ c r : Half, c = crc16 (s.rx.readRange 0 (s.rxLen.toNat - 2)) →
        r = ((s.rx.readCell (s.rxLen.toNat - 2)).setWidth 16 |||
          (s.rx.readCell (s.rxLen.toNat - 1)).setWidth 16 <<< 8) →
        (c ≠ r →
          exec i s = .next { s with
            resDev := s.rx.readCell 0, resFn := s.rx.readCell 1, resAddr := 0, resVal := 0, resN := 0
            resCrc := c, resRxcrc := r, regCount := 0, regs := [], resValid := false, err := .checksumMismatch }) ∧
        (c = r → ∃ t, exec i s = .next t ∧ t.resDev = s.rx.readCell 0 ∧ t.resFn = s.rx.readCell 1 ∧
          t.resCrc = c ∧ t.resRxcrc = r ∧ t.err ≠ .frameTooShort ∧ t.err ≠ .checksumMismatch))

/-- R181, R180: DECODE always completes, reports one of five codes, sets RES_VALID exactly on OK, and writes nothing but
the result registers, RES_VALID and ERR. -/
def Obligations.DecodeCompletesAndKeepsBuffers : Prop :=
  encode .decode = 0x00000030#32 ∧
  (∀ w : Word, opcField w = 0x30#8 → w ≠ 0x00000030#32 → reportsIllegal w) ∧
  ∀ s : State, ∃ t, exec .decode s = .next t ∧ (t.resValid = true ↔ t.err = .ok) ∧
    t.err ∈ [Code.ok, .frameTooShort, .checksumMismatch, .truncatedPayload, .lengthMismatch] ∧
    t = { s with
      resDev := t.resDev, resFn := t.resFn, resAddr := t.resAddr, resVal := t.resVal, resN := t.resN
      resCrc := t.resCrc, resRxcrc := t.resRxcrc, regCount := t.regCount, regs := t.regs, resValid := t.resValid
      err := t.err }

/-- R185, R186: a read response. Shorter than its byte count says: TruncatedPayload, with RES_N recorded. Otherwise
floor(N / 2) big-endian registers in order, the rest of REGS 0. -/
def Obligations.DecodeReadResponse : Prop :=
  ∀ s : State, 3 ≤ s.rxLen.toNat → computedCrc s = carriedCrc s →
    (s.rx.readCell 1 = 0x03#8 ∨ s.rx.readCell 1 = 0x04#8) →
    ∀ n : Nat, n = (s.rx.readCell 2).toNat →
      (s.rxLen.toNat < 3 + n + 2 →
        exec .decode s = .next { s with
          resDev := s.rx.readCell 0, resFn := s.rx.readCell 1, resAddr := 0, resVal := 0, resN := s.rx.readCell 2
          resCrc := computedCrc s, resRxcrc := carriedCrc s, regCount := 0, regs := [], resValid := false
          err := .truncatedPayload }) ∧
      (3 + n + 2 ≤ s.rxLen.toNat →
        ∃ t, exec .decode s = .next t ∧ t.regCount.toNat = n / 2 ∧
          (∀ j, j < n / 2 → t.regs.readCell j =
            (s.rx.readCell (3 + 2 * j)).setWidth 16 <<< 8 ||| (s.rx.readCell (4 + 2 * j)).setWidth 16) ∧
          (∀ j, n / 2 ≤ j → t.regs.readCell j = 0x0000#16) ∧
          t = { s with
            resDev := s.rx.readCell 0, resFn := s.rx.readCell 1, resAddr := 0, resVal := 0, resN := s.rx.readCell 2
            resCrc := computedCrc s, resRxcrc := carriedCrc s, regCount := t.regCount, regs := t.regs
            resValid := true, err := .ok })

/-- R187: a response of function 0x06: address and value of an 8-byte frame, or LengthMismatch. -/
def Obligations.DecodeWriteResponse : Prop :=
  ∀ s : State, 3 ≤ s.rxLen.toNat → computedCrc s = carriedCrc s → s.rx.readCell 1 = 0x06#8 →
    (s.rxLen.toNat ≠ 8 →
      exec .decode s = .next { s with
        resDev := s.rx.readCell 0, resFn := 0x06#8, resAddr := 0, resVal := 0, resN := 0, resCrc := computedCrc s
        resRxcrc := carriedCrc s, regCount := 0, regs := [], resValid := false, err := .lengthMismatch }) ∧
    (s.rxLen.toNat = 8 →
      exec .decode s = .next { s with
        resDev := s.rx.readCell 0, resFn := 0x06#8
        resAddr := (s.rx.readCell 2).setWidth 16 <<< 8 ||| (s.rx.readCell 3).setWidth 16
        resVal := (s.rx.readCell 4).setWidth 16 <<< 8 ||| (s.rx.readCell 5).setWidth 16
        resN := 0, resCrc := computedCrc s, resRxcrc := carriedCrc s, regCount := 0, regs := [], resValid := true
        err := .ok })

/-- R188: any other function code whose checksum passed ends with OK and nothing extracted. -/
def Obligations.DecodeOtherFunctionCodes : Prop :=
  ∀ s : State, 3 ≤ s.rxLen.toNat → computedCrc s = carriedCrc s →
    s.rx.readCell 1 ≠ 0x03#8 → s.rx.readCell 1 ≠ 0x04#8 → s.rx.readCell 1 ≠ 0x06#8 →
    ∃ t, exec .decode s = .next t ∧ t.resCrc = t.resRxcrc ∧
      t = { s with
        resDev := s.rx.readCell 0, resFn := s.rx.readCell 1, resAddr := 0, resVal := 0, resN := 0
        resCrc := computedCrc s, resRxcrc := carriedCrc s, regCount := 0, regs := [], resValid := true, err := .ok }

/-- R189: the one code DECODE reports, by the order of the checks. -/
def Obligations.DecodeReportsFirstFailure : Prop :=
  ∀ s : State, ∃ t, exec .decode s = .next t ∧ (t.resValid = true ↔ t.err = .ok) ∧
    t.err =
      if s.rxLen.toNat < 3 then Code.frameTooShort
      else if crc16 (s.rx.readRange 0 (s.rxLen.toNat - 2)) ≠
          le16 (s.rx.readCell (s.rxLen.toNat - 2)) (s.rx.readCell (s.rxLen.toNat - 1)) then Code.checksumMismatch
      else if s.rx.readCell 1 = 0x03#8 ∨ s.rx.readCell 1 = 0x04#8 then
        (if s.rxLen.toNat < 3 + (s.rx.readCell 2).toNat + 2 then Code.truncatedPayload else Code.ok)
      else if s.rx.readCell 1 = 0x06#8 then (if s.rxLen.toNat ≠ 8 then Code.lengthMismatch else Code.ok)
      else Code.ok

/-- R190: PARSE, whatever the function code: the two checks it shares with DECODE, then the length. It never reports
TruncatedPayload, RES_N and REG_COUNT stay 0, and for function 0x06 it does what DECODE does. -/
def Obligations.ParseReadsAnyFrame : Prop :=
  encode .parse = 0x00000031#32 ∧
  (∀ w : Word, opcField w = 0x31#8 → w ≠ 0x00000031#32 → reportsIllegal w) ∧
  (∀ s : State, s.rxLen.toNat < 3 →
    exec .parse s = .next { s with
      resDev := 0, resFn := 0, resAddr := 0, resVal := 0, resN := 0, resCrc := 0, resRxcrc := 0, regCount := 0
      regs := [], resValid := false, err := .frameTooShort }) ∧
  (∀ s : State, 3 ≤ s.rxLen.toNat → computedCrc s ≠ carriedCrc s →
    exec .parse s = .next { s with
      resDev := s.rx.readCell 0, resFn := s.rx.readCell 1, resAddr := 0, resVal := 0, resN := 0
      resCrc := computedCrc s, resRxcrc := carriedCrc s, regCount := 0, regs := [], resValid := false
      err := .checksumMismatch }) ∧
  (∀ s : State, s.rx.readCell 1 = 0x06#8 → exec .parse s = exec .decode s) ∧
  (∀ s : State, 3 ≤ s.rxLen.toNat → computedCrc s = carriedCrc s →
    (s.rxLen.toNat ≠ 8 →
      exec .parse s = .next { s with
        resDev := s.rx.readCell 0, resFn := s.rx.readCell 1, resAddr := 0, resVal := 0, resN := 0
        resCrc := computedCrc s, resRxcrc := carriedCrc s, regCount := 0, regs := [], resValid := false
        err := .lengthMismatch }) ∧
    (s.rxLen.toNat = 8 →
      exec .parse s = .next { s with
        resDev := s.rx.readCell 0, resFn := s.rx.readCell 1
        resAddr := (s.rx.readCell 2).setWidth 16 <<< 8 ||| (s.rx.readCell 3).setWidth 16
        resVal := (s.rx.readCell 4).setWidth 16 <<< 8 ||| (s.rx.readCell 5).setWidth 16
        resN := 0, resCrc := computedCrc s, resRxcrc := carriedCrc s, regCount := 0, regs := [], resValid := true
        err := .ok })) ∧
  ∀ s : State, ∃ t, exec .parse s = .next t ∧ (t.resValid = true ↔ t.err = .ok) ∧ t.resN = 0 ∧ t.regCount = 0 ∧
    t.err ∈ [Code.ok, .frameTooShort, .checksumMismatch, .lengthMismatch] ∧
    t = { s with
      resDev := t.resDev, resFn := t.resFn, resAddr := t.resAddr, resVal := t.resVal, resN := 0
      resCrc := t.resCrc, resRxcrc := t.resRxcrc, regCount := 0, regs := [], resValid := t.resValid, err := t.err }

/-- The accepted-frame law (43_decode.md section 4). -/
def Obligations.AcceptedFrameLaw : Prop :=
  ∀ s t : State, exec .decode s = .next t → t.err = .ok →
    t.resCrc = t.resRxcrc ∧ 3 ≤ s.rxLen.toNat ∧ t.rxLen = s.rxLen ∧
    (t.resFn = 0x03#8 ∨ t.resFn = 0x04#8 →
      t.resN.toNat + 5 ≤ s.rxLen.toNat ∧ t.regCount.toNat = t.resN.toNat / 2) ∧
    (t.resFn = 0x06#8 → s.rxLen.toNat = 8)

/-- The single-bit flip law (43_decode.md section 4): flip any one bit of RX[0..RX_LEN) in a buffer whose trailing CRC
matches, and DECODE and PARSE both report ChecksumMismatch with RES_VALID 0. -/
def Obligations.SingleBitFlipIsReported : Prop :=
  ∀ (s : State) (i : Instr) (n k : Nat), i = .decode ∨ i = .parse → 3 ≤ s.rxLen.toNat →
    computedCrc s = carriedCrc s → n < s.rxLen.toNat → k < 8 →
    ∃ t, exec i (flipRxBit n k s) = .next t ∧ t.err = .checksumMismatch ∧ t.resValid = false

/-- R280: no command reads leftover bytes. From two states that differ at most there, every command leads to two states that
differ at most there. -/
def Obligations.StaleBytesAreNeverRead : Prop :=
  ∀ (i : Instr) (s s' t : State), SameButStale s s' → exec i s = .next t →
    ∃ t', exec i s' = .next t' ∧ SameButStale t t'

/-! ### Control, status and errors -/

/-- R220: NOP writes ERR and nothing else. -/
def Obligations.NopOnlyWritesErr : Prop :=
  encode .nop = 0x00000000#32 ∧
  (∀ w : Word, opcField w = 0x00#8 → w ≠ 0x00000000#32 → reportsIllegal w) ∧
  ∀ s : State, exec .nop s = .next { s with err := .ok }

/-- R30, and the layout of R29: the fields of STATUS, read whole; the reserved bits read 0 and ERR is one of 0 to 7. -/
def Obligations.StatusFields : Prop :=
  ∀ s : State,
    ((statusWord s).getLsbD 0 = true ↔ s.pending ≠ none) ∧ (statusWord s).getLsbD 1 = s.resValid ∧
    (statusWord s).getLsbD 2 = s.ovr ∧ (statusWord s).getLsbD 3 = false ∧
    (statusWord s).extractLsb' 4 4 = s.err.number ∧ (statusWord s).extractLsb' 8 24 = 0#24 ∧
    ((statusWord s).extractLsb' 4 4).toNat ≤ 7

/-- R240: the numbers of the codes, and which command raises each and for what cause. -/
def Obligations.StatusCodesAndTheirCauses : Prop :=
  (Code.ok.number = 0 ∧ Code.encodingError.number = 1 ∧ Code.frameTooShort.number = 2 ∧
    Code.checksumMismatch.number = 3 ∧ Code.truncatedPayload.number = 4 ∧ Code.lengthMismatch.number = 5 ∧
    Code.bufferFull.number = 6 ∧ Code.illegalCommand.number = 7) ∧
  (∀ (w : Word) (e : Illegal) (s : State), decode w = .error e → perform w s = .next { s with err := .illegalCommand }) ∧
  ∀ (i : Instr) (s t : State), exec i s = .next t →
    (t.err = .encodingError → i = .encode ∧
      (0xFF < s.opDev.toNat ∨ 0xFF < s.opFn.toNat ∨ 0xFFFF < s.opAddr.toNat ∨ 0xFFFF < s.opVal.toNat)) ∧
    (t.err = .frameTooShort → (i = .decode ∨ i = .parse) ∧ s.rxLen.toNat < 3) ∧
    (t.err = .checksumMismatch → (i = .decode ∨ i = .parse) ∧ computedCrc s ≠ carriedCrc s) ∧
    (t.err = .truncatedPayload → i = .decode ∧ (s.rx.readCell 1 = 0x03#8 ∨ s.rx.readCell 1 = 0x04#8) ∧
      s.rxLen.toNat < 3 + (s.rx.readCell 2).toNat + 2) ∧
    (t.err = .lengthMismatch → (i = .parse ∨ (i = .decode ∧ s.rx.readCell 1 = 0x06#8)) ∧ s.rxLen.toNat ≠ 8) ∧
    (t.err = .bufferFull → (∃ b, i = .rxPush b) ∧ s.rxLen.toNat = s.rxCap) ∧
    t.err ≠ .illegalCommand

/-- A failed command never changes the received bytes or the frame's bytes (R241's "RX is never changed by a failure"). -/
def Obligations.FailureKeepsReceivedBytes : Prop :=
  ∀ (i : Instr) (s t : State), exec i s = .next t → t.err ≠ .ok →
    t.rx = s.rx ∧ t.rxLen = s.rxLen ∧ t.tx = s.tx ∧ t.crcAcc = s.crcAcc

/-- R31: RES_VALID changes only by DECODE, PARSE, SRST or reset, and DECODE and PARSE leave it 1 only on success. -/
def Obligations.ResValidWriters : Prop :=
  (∀ s t : State, step s = .next t → t.resValid ≠ s.resValid →
    engineTurn s = some 0x00000030#32 ∨ engineTurn s = some 0x00000031#32 ∨
    (engineTurn s = none ∧ ∃ e rest, s.host = e :: rest ∧ e.resets = true)) ∧
  ∀ (s t : State) (i : Instr), i = .decode ∨ i = .parse → exec i s = .next t → (t.resValid = true ↔ t.err = .ok)

/-- R32: exactly what sets OVR, what such a write does (it is ignored), and exactly what clears it. Whose turn it is, and the host's
queue, are the model's own (log 2, log 10). -/
def Obligations.OverrunSetAndCleared : Prop :=
  ∀ s t : State, step s = .next t →
    (s.ovr = false →
      (t.ovr = true ↔
        engineTurn s = none ∧ s.pending ≠ none ∧
          ∃ off v rest, s.host = .wr off 4 v :: rest ∧ regAt s.rxCap off ≠ none ∧ off ≠ 0x004 ∧
            ¬ (off = 0x000 ∧ v = 0x000000FF#32))) ∧
    (∀ (off : Nat) (v : Word) (rest : List HostEvent), engineTurn s = none → s.pending ≠ none →
      s.host = .wr off 4 v :: rest → regAt s.rxCap off ≠ none → off ≠ 0x004 →
      ¬ (off = 0x000 ∧ v = 0x000000FF#32) →
      t = { s with ovr := true, host := rest, latency := s.latency - 1 }) ∧
    (s.ovr = true →
      (t.ovr = false ↔
        engineTurn s = none ∧
          ∃ e rest, s.host = e :: rest ∧ (e.resets = true ∨ ∃ v : Word, e = .wr 0x004 4 v ∧ v.getLsbD 2 = true)))

/-- R22: a host write to an operand register stores all 32 bits (R67: when idle), a read returns the register, and a step
changes one only by such a write or by a reset. -/
def Obligations.OperandRegisterWriters : Prop :=
  (∀ (s : State) (v : Word), s.pending = none →
    memWrite 0x010 v s = .next { s with opDev := v } ∧ memWrite 0x014 v s = .next { s with opFn := v } ∧
    memWrite 0x018 v s = .next { s with opAddr := v } ∧ memWrite 0x01C v s = .next { s with opVal := v }) ∧
  (∀ s : State, readValue s 0x010 = s.opDev ∧ readValue s 0x014 = s.opFn ∧ readValue s 0x018 = s.opAddr ∧
    readValue s 0x01C = s.opVal) ∧
  ∀ s t : State, step s = .next t →
    (engineTurn s = none ∧ ∃ e rest, s.host = e :: rest ∧ e.resets = true) ∨
    ((t.opDev = s.opDev ∨ ∃ rest, s.host = .wr 0x010 4 t.opDev :: rest ∧ s.pending = none) ∧
      (t.opFn = s.opFn ∨ ∃ rest, s.host = .wr 0x014 4 t.opFn :: rest ∧ s.pending = none) ∧
      (t.opAddr = s.opAddr ∨ ∃ rest, s.host = .wr 0x018 4 t.opAddr :: rest ∧ s.pending = none) ∧
      (t.opVal = s.opVal ∨ ∃ rest, s.host = .wr 0x01C 4 t.opVal :: rest ∧ s.pending = none))

/-! ### The host bus -/

/-- R66: the register map, both ways, and the registers' offsets. -/
def Obligations.RegisterMap : Prop :=
  (Reg.cmd.offset = 0x000 ∧ Reg.status.offset = 0x004 ∧ Reg.id.offset = 0x008 ∧ Reg.opDev.offset = 0x010 ∧
    Reg.opFn.offset = 0x014 ∧ Reg.opAddr.offset = 0x018 ∧ Reg.opVal.offset = 0x01C ∧ Reg.crcAcc.offset = 0x020 ∧
    Reg.txLen.offset = 0x024 ∧ Reg.rxLen.offset = 0x028 ∧ Reg.regCount.offset = 0x02C ∧ Reg.resDev.offset = 0x030 ∧
    Reg.resFn.offset = 0x034 ∧ Reg.resAddr.offset = 0x038 ∧ Reg.resVal.offset = 0x03C ∧ Reg.resN.offset = 0x040 ∧
    Reg.resCrc.offset = 0x044 ∧ Reg.resRxcrc.offset = 0x048) ∧
  (∀ i, (Reg.tx i).offset = 0x080 + 4 * i ∧ (Reg.regs i).offset = 0x100 + 4 * i ∧ (Reg.rx i).offset = 0x400 + 4 * i) ∧
  (∀ (cap off : Nat) (r : Reg), regAt cap off = some r ↔ r.exists? cap = true ∧ r.offset = off) ∧
  ∀ (cap : Nat) (i : Nat),
    ((Reg.tx i).exists? cap = true ↔ i ≤ 7) ∧ ((Reg.regs i).exists? cap = true ↔ i ≤ 126) ∧
    ((Reg.rx i).exists? cap = true ↔ i + 1 ≤ cap)

/-- R63, R66: what an admitted read returns from an idle block, offset by offset, zero-extended. -/
def Obligations.IdleReadValues : Prop :=
  ∀ s : State, s.pending = none →
    readValue s 0x000 = 0x00000000#32 ∧ readValue s 0x004 = statusWord s ∧ readValue s 0x008 = 0x4D420001#32 ∧
    readValue s 0x00C = 0x00000000#32 ∧
    readValue s 0x010 = s.opDev ∧ readValue s 0x014 = s.opFn ∧ readValue s 0x018 = s.opAddr ∧
    readValue s 0x01C = s.opVal ∧ readValue s 0x020 = s.crcAcc.setWidth 32 ∧ readValue s 0x024 = s.txLen.setWidth 32 ∧
    readValue s 0x028 = s.rxLen.setWidth 32 ∧ readValue s 0x02C = s.regCount.setWidth 32 ∧
    readValue s 0x030 = s.resDev.setWidth 32 ∧ readValue s 0x034 = s.resFn.setWidth 32 ∧
    readValue s 0x038 = s.resAddr.setWidth 32 ∧ readValue s 0x03C = s.resVal.setWidth 32 ∧
    readValue s 0x040 = s.resN.setWidth 32 ∧ readValue s 0x044 = s.resCrc.setWidth 32 ∧
    readValue s 0x048 = s.resRxcrc.setWidth 32 ∧
    (∀ i, i < 8 → readValue s (0x080 + 4 * i) = (s.tx.readCell i).setWidth 32) ∧
    (∀ j, j < 127 → readValue s (0x100 + 4 * j) = (s.regs.readCell j).setWidth 32) ∧
    ∀ i, i < s.rxCap → readValue s (0x400 + 4 * i) = (s.rx.readCell i).setWidth 32

/-- R68: while BUSY the reads of CMD, STATUS, ID and OP_* are exact; a read of any other mapped register is one more free
draw. The draw's value is whatever Config.busyDraw gives: nothing is said of it. -/
def Obligations.BusyReads : Prop :=
  ∀ s : State, s.pending ≠ none →
    (readValue s 0x000 = 0x00000000#32 ∧ readValue s 0x004 = statusWord s ∧ readValue s 0x008 = 0x4D420001#32 ∧
      readValue s 0x010 = s.opDev ∧ readValue s 0x014 = s.opFn ∧ readValue s 0x018 = s.opAddr ∧
      readValue s 0x01C = s.opVal) ∧
    ∀ (off : Nat) (r : Reg), regAt s.rxCap off = some r →
      (off ∉ [0x000, 0x004, 0x008, 0x010, 0x014, 0x018, 0x01C] ↔ isDraw s off = true) ∧
      (isDraw s off = true → readValue s off = Config.busyDraw s.draws ∧ (memRead off s).draws = s.draws + 1)

/-- R70: a read has no side effect: of the machine only the host's own log, and the count of draws, change. -/
def Obligations.ReadsHaveNoSideEffect : Prop :=
  ∀ (s : State) (off n : Nat) (rest : List HostEvent) (t : State), s.host = .rd off n :: rest → engineTurn s = none →
    step s = .next t →
    t.reads = (off, readValue s off) :: s.reads ∧
    t = { s with host := rest, latency := s.latency - 1, reads := t.reads, draws := t.draws }

/-- R69: a read of an unmapped offset inside the window returns 0, and a write to one is ignored and never sets OVR. -/
def Obligations.UnmappedOffsets : Prop :=
  ∀ (s : State) (off : Nat), off % 4 = 0 → off ≤ 0xFFC → regAt s.rxCap off = none →
    readValue s off = 0x00000000#32 ∧ (∀ v : Word, memWrite off v s = .next s) ∧ (memRead off s).draws = s.draws

/-- R64: every case of a host write, in R64's order; an idle CMD write leaves the free latency as the next countdown
(log 2). -/
def Obligations.HostWriteCases : Prop :=
  ∀ (s : State) (v : Word),
    (∀ off rest, s.host = .wr off 4 v :: rest →
      ((off % 4 ≠ 0 ∨ 0xFFC < off) → ∃ r, hostStep s = .refused r) ∧
      (off % 4 = 0 → off ≤ 0xFFC → hostStep s = memWrite off v { s with host := rest })) ∧
    memWrite 0x000 0x000000FF#32 s = exec .srst s ∧
    memWrite 0x004 v s = .next (if v.getLsbD 2 = true then { s with ovr := false } else s) ∧
    (∀ off, off % 4 = 0 → off ≤ 0xFFC → regAt s.rxCap off = none → memWrite off v s = .next s) ∧
    (∀ off, off ≠ 0x004 → regAt s.rxCap off ≠ none → ¬ (off = 0x000 ∧ v = 0x000000FF#32) → s.pending ≠ none →
      memWrite off v s = .next { s with ovr := true }) ∧
    (s.pending = none →
      (v ≠ 0x000000FF#32 → ∃ l, memWrite 0x000 v s =
        .next { s with pending := some v, latency := l, accepted := s.accepted + 1 }) ∧
      memWrite 0x010 v s = .next { s with opDev := v } ∧ memWrite 0x014 v s = .next { s with opFn := v } ∧
      memWrite 0x018 v s = .next { s with opAddr := v } ∧ memWrite 0x01C v s = .next { s with opVal := v } ∧
      ∀ off, off ∉ [0x000, 0x004, 0x010, 0x014, 0x018, 0x01C] → memWrite off v s = .next s)

/-- R67: a host write to a mapped offset while BUSY, not SRST and not to STATUS, is ignored and sets OVR: no register a
pending command reads changes under it. That it comes before the engine's step is `0 < s.latency` (log 2). -/
def Obligations.BusyWriteIsIgnored : Prop :=
  ∀ (s : State) (w v : Word) (off : Nat) (rest : List HostEvent), s.pending = some w → 0 < s.latency →
    s.host = .wr off 4 v :: rest → off % 4 = 0 → off ≤ 0xFFC → regAt s.rxCap off ≠ none → off ≠ 0x004 →
    ¬ (off = 0x000 ∧ v = 0x000000FF#32) →
    step s = .next { s with ovr := true, host := rest, latency := s.latency - 1 }

/-- R99: what each mnemonic and pseudo-instruction expands to, and that a byte operand above 255 is an error of the
assembler, never truncated. Two clauses are the model's choice (log 16): that `srst` expands to the write alone (R99 says
that it needs no poll), and what `crc.seq` and `rx.load` of no bytes are (R99 writes at least one). -/
def Obligations.MnemonicsAndPseudoInstructions : Prop :=
  let command (w : Word) : List HostEvent := [.wr 0x000 4 w, .poll]
  ∀ cap : Nat,
    (assemble cap .nop = .ok (command 0x00000000#32) ∧ assemble cap .crcInit = .ok (command 0x00000001#32) ∧
      assemble cap .crcRx = .ok (command 0x00000003#32) ∧ assemble cap .encode = .ok (command 0x00000010#32) ∧
      assemble cap .loopback = .ok (command 0x00000011#32) ∧ assemble cap .rxClear = .ok (command 0x00000020#32) ∧
      assemble cap .decode = .ok (command 0x00000030#32) ∧ assemble cap .parse = .ok (command 0x00000031#32) ∧
      assemble cap .srst = .ok [.wr 0x000 4 0x000000FF#32] ∧
      assemble cap .clrovr = .ok [.wr 0x004 4 0x00000004#32]) ∧
    (∀ b, b ≤ 255 →
      assemble cap (.crcByte b) = .ok (command (0x00000002#32 ||| BitVec.ofNat 32 b <<< 8)) ∧
      assemble cap (.rxPush b) = .ok (command (0x00000021#32 ||| BitVec.ofNat 32 b <<< 8))) ∧
    (∀ b, 255 < b → assemble cap (.crcByte b) = .error (.byteOutOfRange b) ∧
      assemble cap (.rxPush b) = .error (.byteOutOfRange b)) ∧
    (∀ bs : List Nat, (∀ b ∈ bs, b ≤ 255) →
      assemble cap (.crcSeq bs) = .ok (command 0x00000001#32 ++
        bs.flatMap fun b => command (0x00000002#32 ||| BitVec.ofNat 32 b <<< 8)) ∧
      assemble cap (.rxLoad bs) = .ok (command 0x00000020#32 ++
        bs.flatMap fun b => command (0x00000021#32 ||| BitVec.ofNat 32 b <<< 8))) ∧
    ∀ d f a v : Nat, d < 2 ^ 32 → f < 2 ^ 32 → a < 2 ^ 32 → v < 2 ^ 32 →
      let ops : List HostEvent := [.wr 0x010 4 (BitVec.ofNat 32 d), .wr 0x014 4 (BitVec.ofNat 32 f),
        .wr 0x018 4 (BitVec.ofNat 32 a), .wr 0x01C 4 (BitVec.ofNat 32 v)]
      assemble cap (.setop d f a v) = .ok ops ∧ assemble cap (.frame d f a v) = .ok (ops ++ command 0x00000010#32)
end

