-- ==== Sys2Proof/Laws/Crc.lean ====
section
/-! SUPPORT. The small laws of the CRC fold (R121). -/

namespace Sys2Proof.Machine

@[simp] theorem crcShifts_zero (acc : Half) : crcShifts 0 acc = acc := rfl

theorem crcShifts_succ (n : Nat) (acc : Half) : crcShifts (n + 1) acc = crcShifts n (crcShift acc) := rfl

theorem crcShifts_add (n k : Nat) (acc : Half) : crcShifts (n + k) acc = crcShifts k (crcShifts n acc) := by
  induction n generalizing acc with
  | zero => simp
  | succ n ih => rw [Nat.add_right_comm, crcShifts_succ, ih, crcShifts_succ]

theorem crc16_cons_foldl (b : Byte) (bs : List Byte) : crc16 (b :: bs) = bs.foldl crcStep (crcStep crcInitial b) := rfl

theorem crc16_append_foldl (s t : List Byte) : crc16 (s ++ t) = t.foldl crcStep (crc16 s) := by
  simp [crc16, List.foldl_append]

end Sys2Proof.Machine
end

