-- ==== Sys2Proof/Laws/Memory.lean ====
section
/-! SUPPORT. The laws of the buffer operations: reading after writing, ranges, and that every write keeps the canonical
form. The read laws hold of every list, canonical or not. -/

namespace Sys2Proof.Machine

variable {w : Nat}

@[simp] theorem readCell_nil (i : Nat) : Memory.readCell ([] : Memory w) i = 0 := rfl

theorem readCell_cons (k : Nat) (v : BitVec w) (m : Memory w) (i : Nat) :
    Memory.readCell ((k, v) :: m) i = if k = i then v else Memory.readCell m i := rfl

theorem readCell_eraseCell (m : Memory w) (i j : Nat) :
    (m.eraseCell i).readCell j = if j = i then 0 else m.readCell j := by
  induction m with
  | nil => simp [Memory.eraseCell]
  | cons p m ih =>
    obtain ⟨k, v⟩ := p
    simp only [Memory.eraseCell]
    by_cases h : k = i <;> by_cases h' : j = i <;> simp_all [readCell_cons]
    exact fun e => absurd e.symm h'

theorem readCell_insertCell (m : Memory w) (i : Nat) (v : BitVec w) (j : Nat) (h : i ≠ j ∨ m.readCell i = 0)
    (hk : i = j → ∀ p ∈ m, p.1 ≠ i) : (m.insertCell i v).readCell j = if j = i then v else m.readCell j := by
  induction m with
  | nil => simp [Memory.insertCell, readCell_cons, eq_comm]
  | cons p m ih =>
    obtain ⟨k, u⟩ := p
    have hrec : (Memory.insertCell m i v).readCell j = if j = i then v else Memory.readCell m j := by
      by_cases hij : i = j
      · refine ih ?_ fun e q hq => hk e q (List.mem_cons_of_mem _ hq)
        have := hk hij (k, u) List.mem_cons_self
        rcases h with h | h
        · exact absurd hij h
        · rw [readCell_cons, if_neg this] at h
          exact .inr h
      · exact ih (.inl hij) fun e => absurd e hij
    simp only [Memory.insertCell]
    split
    · rw [readCell_cons]; simp [eq_comm]
    · rw [readCell_cons, readCell_cons, hrec]
      by_cases hij : i = j
      · have := hk hij (k, u) List.mem_cons_self
        simp_all
      · simp [Ne.symm hij]

theorem eraseCell_index_ne (m : Memory w) (i : Nat) : ∀ p ∈ m.eraseCell i, p.1 ≠ i := by
  induction m with
  | nil => simp [Memory.eraseCell]
  | cons p m ih =>
    obtain ⟨k, v⟩ := p
    simp only [Memory.eraseCell]
    split
    · exact ih
    · intro q hq
      rcases List.mem_cons.mp hq with rfl | hq
      · assumption
      · exact ih q hq

/-- What a write does to every index. -/
theorem readCell_writeCell (m : Memory w) (i : Nat) (v : BitVec w) (j : Nat) :
    (m.writeCell i v).readCell j = if j = i then v else m.readCell j := by
  unfold Memory.writeCell
  split
  · rename_i h; rw [readCell_eraseCell]; simp [h]
  · rw [readCell_insertCell _ _ _ _ (.inr (by simp [readCell_eraseCell])) fun _ => eraseCell_index_ne m i,
      readCell_eraseCell]
    split <;> rfl

@[simp] theorem readCell_writeCell_self (m : Memory w) (i : Nat) (v : BitVec w) : (m.writeCell i v).readCell i = v := by
  simp [readCell_writeCell]

theorem readCell_writeCell_of_ne (m : Memory w) {i j : Nat} (v : BitVec w) (h : j ≠ i) :
    (m.writeCell i v).readCell j = m.readCell j := by simp [readCell_writeCell, h]

/-- What a store of a sequence does to every index. -/
theorem readCell_writeRange (m : Memory w) (i : Nat) (vs : List (BitVec w)) (j : Nat) :
    (m.writeRange i vs).readCell j = if i ≤ j then vs.getD (j - i) (m.readCell j) else m.readCell j := by
  induction vs generalizing m i with
  | nil => simp [Memory.writeRange]
  | cons v vs ih =>
    rw [Memory.writeRange, ih, readCell_writeCell]
    by_cases h1 : j = i
    · subst h1; simp
    · by_cases h2 : i ≤ j
      · have : j - i = (j - (i + 1)) + 1 := by omega
        have h3 : i + 1 ≤ j := by omega
        simp [h1, h2, h3, this]
      · have h3 : ¬ i + 1 ≤ j := by omega
        simp [h1, h2, h3]

theorem readCell_writeRange_mem (m : Memory w) {i j : Nat} (vs : List (BitVec w)) (h1 : i ≤ j) (h2 : j - i < vs.length) :
    (m.writeRange i vs).readCell j = vs[j - i] := by simp [readCell_writeRange, h1, h2]

theorem readCell_writeRange_outside (m : Memory w) {i j : Nat} (vs : List (BitVec w)) (h : j < i ∨ i + vs.length ≤ j) :
    (m.writeRange i vs).readCell j = m.readCell j := by
  rw [readCell_writeRange]
  split
  · rw [List.getD_eq_default]; omega
  · rfl

@[simp] theorem length_readRange (m : Memory w) (i n : Nat) : (m.readRange i n).length = n := by
  simp [Memory.readRange]

@[simp] theorem getElem_readRange (m : Memory w) (i n j : Nat) (h : j < (m.readRange i n).length) :
    (m.readRange i n)[j] = m.readCell (i + j) := by simp [Memory.readRange]

@[simp] theorem readRange_zero (m : Memory w) (i : Nat) : m.readRange i 0 = [] := rfl

theorem readRange_succ (m : Memory w) (i n : Nat) : m.readRange i (n + 1) = m.readRange i n ++ [m.readCell (i + n)] := by
  simp [Memory.readRange, List.range_succ]

/-- A range depends only on its own entries. -/
theorem readRange_congr (m m' : Memory w) (i n : Nat) (h : ∀ j, j < n → m.readCell (i + j) = m'.readCell (i + j)) :
    m.readRange i n = m'.readRange i n := by
  simp only [Memory.readRange]
  exact List.map_congr_left fun j hj => h j (List.mem_range.mp hj)

/-- Reading back a stored sequence. -/
theorem readRange_writeRange (m : Memory w) (i : Nat) (vs : List (BitVec w)) :
    (m.writeRange i vs).readRange i vs.length = vs := by
  apply List.ext_getElem
  · simp
  · intro n h1 h2
    simp [readCell_writeRange, h2]

/-! ### The canonical form -/

theorem wfFrom_mono {bound lo lo' : Nat} (h : lo' ≤ lo) (m : Memory w) (hm : m.wfFrom bound lo = true) :
    m.wfFrom bound lo' = true := by
  cases m with
  | nil => rfl
  | cons p m =>
    obtain ⟨k, v⟩ := p
    simp only [Memory.wfFrom, Bool.and_eq_true, decide_eq_true_eq] at hm ⊢
    exact ⟨⟨⟨by omega, hm.1.1.2⟩, hm.1.2⟩, hm.2⟩

theorem wfFrom_eraseCell {bound lo : Nat} (m : Memory w) (i : Nat) (hm : m.wfFrom bound lo = true) :
    (m.eraseCell i).wfFrom bound lo = true := by
  induction m generalizing lo with
  | nil => rfl
  | cons p m ih =>
    obtain ⟨k, v⟩ := p
    simp only [Memory.wfFrom, Bool.and_eq_true, decide_eq_true_eq] at hm
    simp only [Memory.eraseCell]
    split
    · exact wfFrom_mono (by omega) _ (ih hm.2)
    · simp only [Memory.wfFrom, Bool.and_eq_true, decide_eq_true_eq]
      exact ⟨hm.1, ih hm.2⟩

theorem wfFrom_insertCell {bound lo i : Nat} (m : Memory w) (v : BitVec w) (hlo : lo ≤ i) (hi : i < bound) (hv : v ≠ 0)
    (hne : ∀ p ∈ m, p.1 ≠ i) (hm : m.wfFrom bound lo = true) : (m.insertCell i v).wfFrom bound lo = true := by
  induction m generalizing lo with
  | nil => simpa [Memory.insertCell, Memory.wfFrom, hlo, hi] using hv
  | cons p m ih =>
    obtain ⟨k, u⟩ := p
    simp only [Memory.wfFrom, Bool.and_eq_true, decide_eq_true_eq] at hm
    have hk := hne (k, u) List.mem_cons_self
    simp only [Memory.insertCell]
    split
    · simp only [Memory.wfFrom, Bool.and_eq_true, decide_eq_true_eq]
      exact ⟨⟨⟨hlo, hi⟩, hv⟩, ⟨⟨by omega, hm.1.1.2⟩, hm.1.2⟩, hm.2⟩
    · simp only [Memory.wfFrom, Bool.and_eq_true, decide_eq_true_eq]
      refine ⟨hm.1, ih ?_ (fun q hq => hne q (List.mem_cons_of_mem _ hq)) hm.2⟩
      have : k ≠ i := hk
      omega

/-- A write inside the bound keeps the canonical form. -/
theorem wf_writeCell {bound : Nat} (m : Memory w) (i : Nat) (v : BitVec w) (hi : i < bound) (hm : m.wf bound = true) :
    (m.writeCell i v).wf bound = true := by
  unfold Memory.writeCell
  split
  · exact wfFrom_eraseCell m i hm
  · exact wfFrom_insertCell _ v (Nat.zero_le _) hi ‹_› (eraseCell_index_ne m i) (wfFrom_eraseCell m i hm)

/-- A store of a sequence inside the bound keeps the canonical form. -/
theorem wf_writeRange {bound : Nat} (m : Memory w) (i : Nat) (vs : List (BitVec w)) (hi : i + vs.length ≤ bound)
    (hm : m.wf bound = true) : (m.writeRange i vs).wf bound = true := by
  induction vs generalizing m i with
  | nil => exact hm
  | cons v vs ih =>
    simp only [List.length_cons] at hi
    exact ih _ _ (by omega) (wf_writeCell m i v (by omega) hm)

/-- A larger bound admits every canonical buffer of a smaller one. -/
theorem wf_mono {b b' : Nat} (h : b ≤ b') (m : Memory w) (hm : m.wf b = true) : m.wf b' = true := by
  unfold Memory.wf at hm ⊢
  generalize 0 = lo at hm ⊢
  induction m generalizing lo with
  | nil => rfl
  | cons p m ih =>
    obtain ⟨k, v⟩ := p
    simp only [Memory.wfFrom, Bool.and_eq_true, decide_eq_true_eq] at hm ⊢
    exact ⟨⟨⟨hm.1.1.1, by omega⟩, hm.1.2⟩, ih _ hm.2⟩

theorem readCell_of_lt_wfFrom {bound lo : Nat} (m : Memory w) (hm : m.wfFrom bound lo = true) {i : Nat} (hi : i < lo) :
    m.readCell i = 0 := by
  induction m generalizing lo with
  | nil => rfl
  | cons p m ih =>
    obtain ⟨k, v⟩ := p
    simp only [Memory.wfFrom, Bool.and_eq_true, decide_eq_true_eq] at hm
    rw [readCell_cons, if_neg (by omega)]
    exact ih hm.2 (by omega)

/-- A canonical buffer holds 0 from its bound on. -/
theorem readCell_of_wf {bound : Nat} (m : Memory w) (hm : m.wf bound = true) {i : Nat} (hi : bound ≤ i) :
    m.readCell i = 0 := by
  unfold Memory.wf at hm
  generalize 0 = lo at hm
  induction m generalizing lo with
  | nil => rfl
  | cons p m ih =>
    obtain ⟨k, v⟩ := p
    simp only [Memory.wfFrom, Bool.and_eq_true, decide_eq_true_eq] at hm
    rw [readCell_cons, if_neg (by omega)]
    exact ih _ hm.2

theorem wfFrom_ext {bound lo : Nat} (m m' : Memory w) (hm : m.wfFrom bound lo = true) (hm' : m'.wfFrom bound lo = true)
    (h : ∀ i, m.readCell i = m'.readCell i) : m = m' := by
  induction m generalizing m' lo with
  | nil =>
    cases m' with
    | nil => rfl
    | cons q m' =>
      obtain ⟨k, v⟩ := q
      have := h k
      simp only [Memory.wfFrom, Bool.and_eq_true, decide_eq_true_eq] at hm'
      simp only [readCell_nil, readCell_cons, if_true] at this
      exact absurd this.symm hm'.1.2
  | cons p m ih =>
    obtain ⟨k, v⟩ := p
    simp only [Memory.wfFrom, Bool.and_eq_true, decide_eq_true_eq] at hm
    cases m' with
    | nil =>
      have := h k
      simp only [readCell_nil, readCell_cons, if_true] at this
      exact absurd this hm.1.2
    | cons q m' =>
      obtain ⟨k', v'⟩ := q
      simp only [Memory.wfFrom, Bool.and_eq_true, decide_eq_true_eq] at hm'
      have hk : k = k' := by
        rcases Nat.lt_trichotomy k k' with hlt | he | hlt
        · have := h k
          rw [readCell_cons, if_pos rfl, readCell_cons, if_neg (by omega),
            readCell_of_lt_wfFrom m' hm'.2 (by omega)] at this
          exact absurd this hm.1.2
        · exact he
        · have := h k'
          rw [readCell_cons, if_neg (by omega), readCell_of_lt_wfFrom m hm.2 (by omega), readCell_cons,
            if_pos rfl] at this
          exact absurd this.symm hm'.1.2
      subst hk
      have hv : v = v' := by simpa [readCell_cons] using h k
      subst hv
      congr 1
      refine ih m' hm.2 hm'.2 fun i => ?_
      by_cases hi : k = i
      · subst hi
        rw [readCell_of_lt_wfFrom m hm.2 (by omega), readCell_of_lt_wfFrom m' hm'.2 (by omega)]
      · simpa [readCell_cons, hi] using h i

/-- Canonical buffers with the same entries are the same list. -/
theorem wf_ext {bound : Nat} (m m' : Memory w) (hm : m.wf bound = true) (hm' : m'.wf bound = true)
    (h : ∀ i, m.readCell i = m'.readCell i) : m = m' := wfFrom_ext m m' hm hm' h

end Sys2Proof.Machine
end

