-- ==== Sys2Proof/Laws/Operands.lean ====
section
/-! SUPPORT. The byte order laws: splitting a 16-bit value and putting two bytes together undo each other (R9, R74). -/

namespace Sys2Proof.Machine

@[simp] theorem getLsbD_hi8 (n : Half) (i : Nat) : (hi8 n).getLsbD i = (decide (i < 8) && n.getLsbD (8 + i)) := by
  simp [hi8]

@[simp] theorem getLsbD_lo8 (n : Half) (i : Nat) : (lo8 n).getLsbD i = (decide (i < 8) && n.getLsbD i) := by
  simp [lo8]

@[simp] theorem getLsbD_be16 (a b : Byte) (i : Nat) :
    (be16 a b).getLsbD i = if i < 8 then b.getLsbD i else (decide (i < 16) && a.getLsbD (i - 8)) := by
  by_cases h : i < 8
  · have h16 : i < 16 := by omega
    simp [be16, h, h16]
  · have hb : b.getLsbD i = false := BitVec.getLsbD_of_ge _ _ (by omega)
    by_cases h16 : i < 16
    · simp [be16, h, h16, hb]
    · simp [be16, h, h16]

theorem le16_eq_be16 (a b : Byte) : le16 a b = be16 b a := by simp [le16, be16, BitVec.or_comm]

@[simp] theorem be16_hi8_lo8 (n : Half) : be16 (hi8 n) (lo8 n) = n := by
  apply BitVec.eq_of_getLsbD_eq
  intro i hi
  rw [getLsbD_be16, getLsbD_hi8, getLsbD_lo8]
  split
  · simp only [*, decide_true, Bool.true_and]
  · rw [show 8 + (i - 8) = i by omega]
    simp only [hi, show i - 8 < 8 by omega, decide_true, Bool.true_and]

@[simp] theorem le16_lo8_hi8 (n : Half) : le16 (lo8 n) (hi8 n) = n := by rw [le16_eq_be16, be16_hi8_lo8]

@[simp] theorem hi8_be16 (a b : Byte) : hi8 (be16 a b) = a := by
  apply BitVec.eq_of_getLsbD_eq
  intro i hi
  rw [getLsbD_hi8, getLsbD_be16, if_neg (by omega), show 8 + i - 8 = i by omega]
  simp only [hi, show 8 + i < 16 by omega, decide_true, Bool.true_and]

@[simp] theorem lo8_be16 (a b : Byte) : lo8 (be16 a b) = b := by
  apply BitVec.eq_of_getLsbD_eq
  intro i hi
  rw [getLsbD_lo8, getLsbD_be16, if_pos hi]
  simp only [hi, decide_true, Bool.true_and]

end Sys2Proof.Machine
end

