-- ==== Sys2Proof/Laws/PerInstr.lean ====
section
/-! SUPPORT. One lemma per command: its word is the one its row of spec/opcode_table.json gives. -/

namespace Sys2Proof.Laws.TableRow

/-- The match column of the row. -/
def rowMatch : Instr → Word
  | .nop => 0x00000000#32
  | .crcInit => 0x00000001#32
  | .crcByte _ => 0x00000002#32
  | .crcRx => 0x00000003#32
  | .encode => 0x00000010#32
  | .loopback => 0x00000011#32
  | .rxClear => 0x00000020#32
  | .rxPush _ => 0x00000021#32
  | .decode => 0x00000030#32
  | .parse => 0x00000031#32
  | .srst => 0x000000FF#32

/-- The mask column of the row. -/
def rowMask : Instr → Word
  | .crcByte _ | .rxPush _ => 0xFFFF00FF#32
  | .nop | .crcInit | .crcRx | .encode | .loopback | .rxClear | .decode | .parse | .srst => 0xFFFFFFFF#32

/-- The word fits the row, and it is none of R96's illegal words. -/
def Statement (i : Instr) : Prop := encode i &&& rowMask i = rowMatch i ∧ legalWord (encode i) = true

theorem nop : Statement .nop := by unfold Statement; decide

theorem crcInit : Statement .crcInit := by unfold Statement; decide

theorem crcByte (b : Byte) : Statement (.crcByte b) := by
  unfold Statement
  revert b
  decide +kernel

theorem crcRx : Statement .crcRx := by unfold Statement; decide

theorem encode : Statement .encode := by unfold Statement; decide

theorem loopback : Statement .loopback := by unfold Statement; decide

theorem rxClear : Statement .rxClear := by unfold Statement; decide

theorem rxPush (b : Byte) : Statement (.rxPush b) := by
  unfold Statement
  revert b
  decide +kernel

theorem decode : Statement .decode := by unfold Statement; decide

theorem parse : Statement .parse := by unfold Statement; decide

theorem srst : Statement .srst := by unfold Statement; decide

end Sys2Proof.Laws.TableRow
end

