-- ==== Sys2Proof/Laws/State.lean ====
section
/-! SUPPORT. The shared updates of State, field by field, so that no later proof unfolds a record update. -/

namespace Sys2Proof.Machine

/-! ### finish -/

@[simp] theorem finish_rxCap (c : Code) (s : State) : (finish c s).rxCap = s.rxCap := rfl
@[simp] theorem finish_opDev (c : Code) (s : State) : (finish c s).opDev = s.opDev := rfl
@[simp] theorem finish_opFn (c : Code) (s : State) : (finish c s).opFn = s.opFn := rfl
@[simp] theorem finish_opAddr (c : Code) (s : State) : (finish c s).opAddr = s.opAddr := rfl
@[simp] theorem finish_opVal (c : Code) (s : State) : (finish c s).opVal = s.opVal := rfl
@[simp] theorem finish_crcAcc (c : Code) (s : State) : (finish c s).crcAcc = s.crcAcc := rfl
@[simp] theorem finish_tx (c : Code) (s : State) : (finish c s).tx = s.tx := rfl
@[simp] theorem finish_txLen (c : Code) (s : State) : (finish c s).txLen = s.txLen := rfl
@[simp] theorem finish_rx (c : Code) (s : State) : (finish c s).rx = s.rx := rfl
@[simp] theorem finish_rxLen (c : Code) (s : State) : (finish c s).rxLen = s.rxLen := rfl
@[simp] theorem finish_resDev (c : Code) (s : State) : (finish c s).resDev = s.resDev := rfl
@[simp] theorem finish_resFn (c : Code) (s : State) : (finish c s).resFn = s.resFn := rfl
@[simp] theorem finish_resAddr (c : Code) (s : State) : (finish c s).resAddr = s.resAddr := rfl
@[simp] theorem finish_resVal (c : Code) (s : State) : (finish c s).resVal = s.resVal := rfl
@[simp] theorem finish_resN (c : Code) (s : State) : (finish c s).resN = s.resN := rfl
@[simp] theorem finish_resCrc (c : Code) (s : State) : (finish c s).resCrc = s.resCrc := rfl
@[simp] theorem finish_resRxcrc (c : Code) (s : State) : (finish c s).resRxcrc = s.resRxcrc := rfl
@[simp] theorem finish_regCount (c : Code) (s : State) : (finish c s).regCount = s.regCount := rfl
@[simp] theorem finish_regs (c : Code) (s : State) : (finish c s).regs = s.regs := rfl
@[simp] theorem finish_resValid (c : Code) (s : State) : (finish c s).resValid = s.resValid := rfl
@[simp] theorem finish_ovr (c : Code) (s : State) : (finish c s).ovr = s.ovr := rfl
@[simp] theorem finish_err (c : Code) (s : State) : (finish c s).err = c := rfl
@[simp] theorem finish_pending (c : Code) (s : State) : (finish c s).pending = s.pending := rfl
@[simp] theorem finish_latency (c : Code) (s : State) : (finish c s).latency = s.latency := rfl
@[simp] theorem finish_accepted (c : Code) (s : State) : (finish c s).accepted = s.accepted := rfl
@[simp] theorem finish_draws (c : Code) (s : State) : (finish c s).draws = s.draws := rfl
@[simp] theorem finish_host (c : Code) (s : State) : (finish c s).host = s.host := rfl
@[simp] theorem finish_reads (c : Code) (s : State) : (finish c s).reads = s.reads := rfl

/-! ### clearResults -/

@[simp] theorem clearResults_rxCap (s : State) : (clearResults s).rxCap = s.rxCap := rfl
@[simp] theorem clearResults_opDev (s : State) : (clearResults s).opDev = s.opDev := rfl
@[simp] theorem clearResults_opFn (s : State) : (clearResults s).opFn = s.opFn := rfl
@[simp] theorem clearResults_opAddr (s : State) : (clearResults s).opAddr = s.opAddr := rfl
@[simp] theorem clearResults_opVal (s : State) : (clearResults s).opVal = s.opVal := rfl
@[simp] theorem clearResults_crcAcc (s : State) : (clearResults s).crcAcc = s.crcAcc := rfl
@[simp] theorem clearResults_tx (s : State) : (clearResults s).tx = s.tx := rfl
@[simp] theorem clearResults_txLen (s : State) : (clearResults s).txLen = s.txLen := rfl
@[simp] theorem clearResults_rx (s : State) : (clearResults s).rx = s.rx := rfl
@[simp] theorem clearResults_rxLen (s : State) : (clearResults s).rxLen = s.rxLen := rfl
@[simp] theorem clearResults_resDev (s : State) : (clearResults s).resDev = 0 := rfl
@[simp] theorem clearResults_resFn (s : State) : (clearResults s).resFn = 0 := rfl
@[simp] theorem clearResults_resAddr (s : State) : (clearResults s).resAddr = 0 := rfl
@[simp] theorem clearResults_resVal (s : State) : (clearResults s).resVal = 0 := rfl
@[simp] theorem clearResults_resN (s : State) : (clearResults s).resN = 0 := rfl
@[simp] theorem clearResults_resCrc (s : State) : (clearResults s).resCrc = 0 := rfl
@[simp] theorem clearResults_resRxcrc (s : State) : (clearResults s).resRxcrc = 0 := rfl
@[simp] theorem clearResults_regCount (s : State) : (clearResults s).regCount = 0 := rfl
@[simp] theorem clearResults_regs (s : State) : (clearResults s).regs = [] := rfl
@[simp] theorem clearResults_resValid (s : State) : (clearResults s).resValid = false := rfl
@[simp] theorem clearResults_ovr (s : State) : (clearResults s).ovr = s.ovr := rfl
@[simp] theorem clearResults_err (s : State) : (clearResults s).err = s.err := rfl
@[simp] theorem clearResults_pending (s : State) : (clearResults s).pending = s.pending := rfl
@[simp] theorem clearResults_latency (s : State) : (clearResults s).latency = s.latency := rfl
@[simp] theorem clearResults_accepted (s : State) : (clearResults s).accepted = s.accepted := rfl
@[simp] theorem clearResults_draws (s : State) : (clearResults s).draws = s.draws := rfl
@[simp] theorem clearResults_host (s : State) : (clearResults s).host = s.host := rfl
@[simp] theorem clearResults_reads (s : State) : (clearResults s).reads = s.reads := rfl

/-! ### acceptWord -/

@[simp] theorem acceptWord_rxCap (v : Word) (s : State) : (acceptWord v s).rxCap = s.rxCap := rfl
@[simp] theorem acceptWord_opDev (v : Word) (s : State) : (acceptWord v s).opDev = s.opDev := rfl
@[simp] theorem acceptWord_opFn (v : Word) (s : State) : (acceptWord v s).opFn = s.opFn := rfl
@[simp] theorem acceptWord_opAddr (v : Word) (s : State) : (acceptWord v s).opAddr = s.opAddr := rfl
@[simp] theorem acceptWord_opVal (v : Word) (s : State) : (acceptWord v s).opVal = s.opVal := rfl
@[simp] theorem acceptWord_crcAcc (v : Word) (s : State) : (acceptWord v s).crcAcc = s.crcAcc := rfl
@[simp] theorem acceptWord_tx (v : Word) (s : State) : (acceptWord v s).tx = s.tx := rfl
@[simp] theorem acceptWord_txLen (v : Word) (s : State) : (acceptWord v s).txLen = s.txLen := rfl
@[simp] theorem acceptWord_rx (v : Word) (s : State) : (acceptWord v s).rx = s.rx := rfl
@[simp] theorem acceptWord_rxLen (v : Word) (s : State) : (acceptWord v s).rxLen = s.rxLen := rfl
@[simp] theorem acceptWord_resDev (v : Word) (s : State) : (acceptWord v s).resDev = s.resDev := rfl
@[simp] theorem acceptWord_resFn (v : Word) (s : State) : (acceptWord v s).resFn = s.resFn := rfl
@[simp] theorem acceptWord_resAddr (v : Word) (s : State) : (acceptWord v s).resAddr = s.resAddr := rfl
@[simp] theorem acceptWord_resVal (v : Word) (s : State) : (acceptWord v s).resVal = s.resVal := rfl
@[simp] theorem acceptWord_resN (v : Word) (s : State) : (acceptWord v s).resN = s.resN := rfl
@[simp] theorem acceptWord_resCrc (v : Word) (s : State) : (acceptWord v s).resCrc = s.resCrc := rfl
@[simp] theorem acceptWord_resRxcrc (v : Word) (s : State) : (acceptWord v s).resRxcrc = s.resRxcrc := rfl
@[simp] theorem acceptWord_regCount (v : Word) (s : State) : (acceptWord v s).regCount = s.regCount := rfl
@[simp] theorem acceptWord_regs (v : Word) (s : State) : (acceptWord v s).regs = s.regs := rfl
@[simp] theorem acceptWord_resValid (v : Word) (s : State) : (acceptWord v s).resValid = s.resValid := rfl
@[simp] theorem acceptWord_ovr (v : Word) (s : State) : (acceptWord v s).ovr = s.ovr := rfl
@[simp] theorem acceptWord_err (v : Word) (s : State) : (acceptWord v s).err = s.err := rfl
@[simp] theorem acceptWord_pending (v : Word) (s : State) : (acceptWord v s).pending = some v := rfl
@[simp] theorem acceptWord_latency (v : Word) (s : State) : (acceptWord v s).latency = Config.latency s.accepted := rfl
@[simp] theorem acceptWord_accepted (v : Word) (s : State) : (acceptWord v s).accepted = s.accepted + 1 := rfl
@[simp] theorem acceptWord_draws (v : Word) (s : State) : (acceptWord v s).draws = s.draws := rfl
@[simp] theorem acceptWord_host (v : Word) (s : State) : (acceptWord v s).host = s.host := rfl
@[simp] theorem acceptWord_reads (v : Word) (s : State) : (acceptWord v s).reads = s.reads := rfl

/-! ### setOverrun -/

@[simp] theorem setOverrun_rxCap (s : State) : (setOverrun s).rxCap = s.rxCap := rfl
@[simp] theorem setOverrun_opDev (s : State) : (setOverrun s).opDev = s.opDev := rfl
@[simp] theorem setOverrun_opFn (s : State) : (setOverrun s).opFn = s.opFn := rfl
@[simp] theorem setOverrun_opAddr (s : State) : (setOverrun s).opAddr = s.opAddr := rfl
@[simp] theorem setOverrun_opVal (s : State) : (setOverrun s).opVal = s.opVal := rfl
@[simp] theorem setOverrun_crcAcc (s : State) : (setOverrun s).crcAcc = s.crcAcc := rfl
@[simp] theorem setOverrun_tx (s : State) : (setOverrun s).tx = s.tx := rfl
@[simp] theorem setOverrun_txLen (s : State) : (setOverrun s).txLen = s.txLen := rfl
@[simp] theorem setOverrun_rx (s : State) : (setOverrun s).rx = s.rx := rfl
@[simp] theorem setOverrun_rxLen (s : State) : (setOverrun s).rxLen = s.rxLen := rfl
@[simp] theorem setOverrun_resDev (s : State) : (setOverrun s).resDev = s.resDev := rfl
@[simp] theorem setOverrun_resFn (s : State) : (setOverrun s).resFn = s.resFn := rfl
@[simp] theorem setOverrun_resAddr (s : State) : (setOverrun s).resAddr = s.resAddr := rfl
@[simp] theorem setOverrun_resVal (s : State) : (setOverrun s).resVal = s.resVal := rfl
@[simp] theorem setOverrun_resN (s : State) : (setOverrun s).resN = s.resN := rfl
@[simp] theorem setOverrun_resCrc (s : State) : (setOverrun s).resCrc = s.resCrc := rfl
@[simp] theorem setOverrun_resRxcrc (s : State) : (setOverrun s).resRxcrc = s.resRxcrc := rfl
@[simp] theorem setOverrun_regCount (s : State) : (setOverrun s).regCount = s.regCount := rfl
@[simp] theorem setOverrun_regs (s : State) : (setOverrun s).regs = s.regs := rfl
@[simp] theorem setOverrun_resValid (s : State) : (setOverrun s).resValid = s.resValid := rfl
@[simp] theorem setOverrun_ovr (s : State) : (setOverrun s).ovr = true := rfl
@[simp] theorem setOverrun_err (s : State) : (setOverrun s).err = s.err := rfl
@[simp] theorem setOverrun_pending (s : State) : (setOverrun s).pending = s.pending := rfl
@[simp] theorem setOverrun_latency (s : State) : (setOverrun s).latency = s.latency := rfl
@[simp] theorem setOverrun_accepted (s : State) : (setOverrun s).accepted = s.accepted := rfl
@[simp] theorem setOverrun_draws (s : State) : (setOverrun s).draws = s.draws := rfl
@[simp] theorem setOverrun_host (s : State) : (setOverrun s).host = s.host := rfl
@[simp] theorem setOverrun_reads (s : State) : (setOverrun s).reads = s.reads := rfl

/-! ### clearPending -/

@[simp] theorem clearPending_rxCap (s : State) : (clearPending s).rxCap = s.rxCap := rfl
@[simp] theorem clearPending_opDev (s : State) : (clearPending s).opDev = s.opDev := rfl
@[simp] theorem clearPending_opFn (s : State) : (clearPending s).opFn = s.opFn := rfl
@[simp] theorem clearPending_opAddr (s : State) : (clearPending s).opAddr = s.opAddr := rfl
@[simp] theorem clearPending_opVal (s : State) : (clearPending s).opVal = s.opVal := rfl
@[simp] theorem clearPending_crcAcc (s : State) : (clearPending s).crcAcc = s.crcAcc := rfl
@[simp] theorem clearPending_tx (s : State) : (clearPending s).tx = s.tx := rfl
@[simp] theorem clearPending_txLen (s : State) : (clearPending s).txLen = s.txLen := rfl
@[simp] theorem clearPending_rx (s : State) : (clearPending s).rx = s.rx := rfl
@[simp] theorem clearPending_rxLen (s : State) : (clearPending s).rxLen = s.rxLen := rfl
@[simp] theorem clearPending_resDev (s : State) : (clearPending s).resDev = s.resDev := rfl
@[simp] theorem clearPending_resFn (s : State) : (clearPending s).resFn = s.resFn := rfl
@[simp] theorem clearPending_resAddr (s : State) : (clearPending s).resAddr = s.resAddr := rfl
@[simp] theorem clearPending_resVal (s : State) : (clearPending s).resVal = s.resVal := rfl
@[simp] theorem clearPending_resN (s : State) : (clearPending s).resN = s.resN := rfl
@[simp] theorem clearPending_resCrc (s : State) : (clearPending s).resCrc = s.resCrc := rfl
@[simp] theorem clearPending_resRxcrc (s : State) : (clearPending s).resRxcrc = s.resRxcrc := rfl
@[simp] theorem clearPending_regCount (s : State) : (clearPending s).regCount = s.regCount := rfl
@[simp] theorem clearPending_regs (s : State) : (clearPending s).regs = s.regs := rfl
@[simp] theorem clearPending_resValid (s : State) : (clearPending s).resValid = s.resValid := rfl
@[simp] theorem clearPending_ovr (s : State) : (clearPending s).ovr = s.ovr := rfl
@[simp] theorem clearPending_err (s : State) : (clearPending s).err = s.err := rfl
@[simp] theorem clearPending_pending (s : State) : (clearPending s).pending = none := rfl
@[simp] theorem clearPending_latency (s : State) : (clearPending s).latency = 0 := rfl
@[simp] theorem clearPending_accepted (s : State) : (clearPending s).accepted = s.accepted := rfl
@[simp] theorem clearPending_draws (s : State) : (clearPending s).draws = s.draws := rfl
@[simp] theorem clearPending_host (s : State) : (clearPending s).host = s.host := rfl
@[simp] theorem clearPending_reads (s : State) : (clearPending s).reads = s.reads := rfl

/-! ### recordChecksum -/

@[simp] theorem recordChecksum_rxCap (s : State) : (recordChecksum s).rxCap = s.rxCap := rfl
@[simp] theorem recordChecksum_opDev (s : State) : (recordChecksum s).opDev = s.opDev := rfl
@[simp] theorem recordChecksum_opFn (s : State) : (recordChecksum s).opFn = s.opFn := rfl
@[simp] theorem recordChecksum_opAddr (s : State) : (recordChecksum s).opAddr = s.opAddr := rfl
@[simp] theorem recordChecksum_opVal (s : State) : (recordChecksum s).opVal = s.opVal := rfl
@[simp] theorem recordChecksum_crcAcc (s : State) : (recordChecksum s).crcAcc = s.crcAcc := rfl
@[simp] theorem recordChecksum_tx (s : State) : (recordChecksum s).tx = s.tx := rfl
@[simp] theorem recordChecksum_txLen (s : State) : (recordChecksum s).txLen = s.txLen := rfl
@[simp] theorem recordChecksum_rx (s : State) : (recordChecksum s).rx = s.rx := rfl
@[simp] theorem recordChecksum_rxLen (s : State) : (recordChecksum s).rxLen = s.rxLen := rfl
@[simp] theorem recordChecksum_resDev (s : State) : (recordChecksum s).resDev = s.rx.readCell 0 := rfl
@[simp] theorem recordChecksum_resFn (s : State) : (recordChecksum s).resFn = s.rx.readCell 1 := rfl
@[simp] theorem recordChecksum_resAddr (s : State) : (recordChecksum s).resAddr = s.resAddr := rfl
@[simp] theorem recordChecksum_resVal (s : State) : (recordChecksum s).resVal = s.resVal := rfl
@[simp] theorem recordChecksum_resN (s : State) : (recordChecksum s).resN = s.resN := rfl
@[simp] theorem recordChecksum_resCrc (s : State) : (recordChecksum s).resCrc = computedCrc s := rfl
@[simp] theorem recordChecksum_resRxcrc (s : State) : (recordChecksum s).resRxcrc = carriedCrc s := rfl
@[simp] theorem recordChecksum_regCount (s : State) : (recordChecksum s).regCount = s.regCount := rfl
@[simp] theorem recordChecksum_regs (s : State) : (recordChecksum s).regs = s.regs := rfl
@[simp] theorem recordChecksum_resValid (s : State) : (recordChecksum s).resValid = s.resValid := rfl
@[simp] theorem recordChecksum_ovr (s : State) : (recordChecksum s).ovr = s.ovr := rfl
@[simp] theorem recordChecksum_err (s : State) : (recordChecksum s).err = s.err := rfl
@[simp] theorem recordChecksum_pending (s : State) : (recordChecksum s).pending = s.pending := rfl
@[simp] theorem recordChecksum_latency (s : State) : (recordChecksum s).latency = s.latency := rfl
@[simp] theorem recordChecksum_accepted (s : State) : (recordChecksum s).accepted = s.accepted := rfl
@[simp] theorem recordChecksum_draws (s : State) : (recordChecksum s).draws = s.draws := rfl
@[simp] theorem recordChecksum_host (s : State) : (recordChecksum s).host = s.host := rfl
@[simp] theorem recordChecksum_reads (s : State) : (recordChecksum s).reads = s.reads := rfl

/-! ### memRead -/

@[simp] theorem memRead_rxCap (off : Nat) (s : State) : (memRead off s).rxCap = s.rxCap := rfl
@[simp] theorem memRead_opDev (off : Nat) (s : State) : (memRead off s).opDev = s.opDev := rfl
@[simp] theorem memRead_opFn (off : Nat) (s : State) : (memRead off s).opFn = s.opFn := rfl
@[simp] theorem memRead_opAddr (off : Nat) (s : State) : (memRead off s).opAddr = s.opAddr := rfl
@[simp] theorem memRead_opVal (off : Nat) (s : State) : (memRead off s).opVal = s.opVal := rfl
@[simp] theorem memRead_crcAcc (off : Nat) (s : State) : (memRead off s).crcAcc = s.crcAcc := rfl
@[simp] theorem memRead_tx (off : Nat) (s : State) : (memRead off s).tx = s.tx := rfl
@[simp] theorem memRead_txLen (off : Nat) (s : State) : (memRead off s).txLen = s.txLen := rfl
@[simp] theorem memRead_rx (off : Nat) (s : State) : (memRead off s).rx = s.rx := rfl
@[simp] theorem memRead_rxLen (off : Nat) (s : State) : (memRead off s).rxLen = s.rxLen := rfl
@[simp] theorem memRead_resDev (off : Nat) (s : State) : (memRead off s).resDev = s.resDev := rfl
@[simp] theorem memRead_resFn (off : Nat) (s : State) : (memRead off s).resFn = s.resFn := rfl
@[simp] theorem memRead_resAddr (off : Nat) (s : State) : (memRead off s).resAddr = s.resAddr := rfl
@[simp] theorem memRead_resVal (off : Nat) (s : State) : (memRead off s).resVal = s.resVal := rfl
@[simp] theorem memRead_resN (off : Nat) (s : State) : (memRead off s).resN = s.resN := rfl
@[simp] theorem memRead_resCrc (off : Nat) (s : State) : (memRead off s).resCrc = s.resCrc := rfl
@[simp] theorem memRead_resRxcrc (off : Nat) (s : State) : (memRead off s).resRxcrc = s.resRxcrc := rfl
@[simp] theorem memRead_regCount (off : Nat) (s : State) : (memRead off s).regCount = s.regCount := rfl
@[simp] theorem memRead_regs (off : Nat) (s : State) : (memRead off s).regs = s.regs := rfl
@[simp] theorem memRead_resValid (off : Nat) (s : State) : (memRead off s).resValid = s.resValid := rfl
@[simp] theorem memRead_ovr (off : Nat) (s : State) : (memRead off s).ovr = s.ovr := rfl
@[simp] theorem memRead_err (off : Nat) (s : State) : (memRead off s).err = s.err := rfl
@[simp] theorem memRead_pending (off : Nat) (s : State) : (memRead off s).pending = s.pending := rfl
@[simp] theorem memRead_latency (off : Nat) (s : State) : (memRead off s).latency = s.latency := rfl
@[simp] theorem memRead_accepted (off : Nat) (s : State) : (memRead off s).accepted = s.accepted := rfl
@[simp] theorem memRead_draws (off : Nat) (s : State) : (memRead off s).draws = if isDraw s off then s.draws + 1 else s.draws := rfl
@[simp] theorem memRead_host (off : Nat) (s : State) : (memRead off s).host = s.host := rfl
@[simp] theorem memRead_reads (off : Nat) (s : State) : (memRead off s).reads = (off, readValue s off) :: s.reads := rfl

/-! ### blockReset -/

@[simp] theorem blockReset_rxCap (s : State) : (blockReset s).rxCap = s.rxCap := rfl
@[simp] theorem blockReset_opDev (s : State) : (blockReset s).opDev = 0 := rfl
@[simp] theorem blockReset_opFn (s : State) : (blockReset s).opFn = 0 := rfl
@[simp] theorem blockReset_opAddr (s : State) : (blockReset s).opAddr = 0 := rfl
@[simp] theorem blockReset_opVal (s : State) : (blockReset s).opVal = 0 := rfl
@[simp] theorem blockReset_crcAcc (s : State) : (blockReset s).crcAcc = 0xFFFF := rfl
@[simp] theorem blockReset_tx (s : State) : (blockReset s).tx = [] := rfl
@[simp] theorem blockReset_txLen (s : State) : (blockReset s).txLen = 0 := rfl
@[simp] theorem blockReset_rx (s : State) : (blockReset s).rx = [] := rfl
@[simp] theorem blockReset_rxLen (s : State) : (blockReset s).rxLen = 0 := rfl
@[simp] theorem blockReset_resDev (s : State) : (blockReset s).resDev = 0 := rfl
@[simp] theorem blockReset_resFn (s : State) : (blockReset s).resFn = 0 := rfl
@[simp] theorem blockReset_resAddr (s : State) : (blockReset s).resAddr = 0 := rfl
@[simp] theorem blockReset_resVal (s : State) : (blockReset s).resVal = 0 := rfl
@[simp] theorem blockReset_resN (s : State) : (blockReset s).resN = 0 := rfl
@[simp] theorem blockReset_resCrc (s : State) : (blockReset s).resCrc = 0 := rfl
@[simp] theorem blockReset_resRxcrc (s : State) : (blockReset s).resRxcrc = 0 := rfl
@[simp] theorem blockReset_regCount (s : State) : (blockReset s).regCount = 0 := rfl
@[simp] theorem blockReset_regs (s : State) : (blockReset s).regs = [] := rfl
@[simp] theorem blockReset_resValid (s : State) : (blockReset s).resValid = false := rfl
@[simp] theorem blockReset_ovr (s : State) : (blockReset s).ovr = false := rfl
@[simp] theorem blockReset_err (s : State) : (blockReset s).err = Code.ok := rfl
@[simp] theorem blockReset_pending (s : State) : (blockReset s).pending = none := rfl
@[simp] theorem blockReset_latency (s : State) : (blockReset s).latency = 0 := rfl
@[simp] theorem blockReset_accepted (s : State) : (blockReset s).accepted = s.accepted := rfl
@[simp] theorem blockReset_draws (s : State) : (blockReset s).draws = s.draws := rfl
@[simp] theorem blockReset_host (s : State) : (blockReset s).host = s.host := rfl
@[simp] theorem blockReset_reads (s : State) : (blockReset s).reads = s.reads := rfl

end Sys2Proof.Machine
end

