-- ==== Sys2Proof/Laws/Step.lean ====
section
/-! SUPPORT. What each command answers, and what a step, a host access and a host write can do: one inversion lemma each,
for later proofs to cite. -/

namespace Sys2Proof.Machine

/-! ### The commands -/

@[simp] theorem andThen_next (s : State) (f : State → Host.Outcome State Fault Refusal) :
    andThen (.next s) f = f s := rfl

@[simp] theorem exec_nop (s : State) : exec .nop s = .next (finish .ok s) := rfl

@[simp] theorem exec_crcInit (s : State) : exec .crcInit s = .next (finish .ok { s with crcAcc := crcInitial }) := rfl

@[simp] theorem exec_crcByte (b : Byte) (s : State) :
    exec (.crcByte b) s = .next (finish .ok { s with crcAcc := crcStep s.crcAcc b }) := rfl

@[simp] theorem exec_crcRx (s : State) : exec .crcRx s = .next (finish .ok { s with crcAcc := crc16 (rxBytes s) }) := rfl

theorem exec_encode_rejected (s : State) (h : operandOutOfRange s = true) :
    exec .encode s = .next (finish .encodingError { s with txLen := 0 }) := by simp [exec, execEncode, h]

theorem exec_encode_accepted (s : State) (h : operandOutOfRange s = false) :
    exec .encode s = .next (finish .ok { s with tx := s.tx.writeRange 0 (operandFrame s), txLen := 8 }) := by
  simp [exec, execEncode, h]

@[simp] theorem exec_loopback (s : State) :
    exec .loopback s =
      .next (finish .ok { s with rx := s.rx.writeRange 0 (txBytes s), rxLen := s.txLen.setWidth 10 }) := rfl

@[simp] theorem exec_rxClear (s : State) : exec .rxClear s = .next (finish .ok { s with rxLen := 0 }) := rfl

theorem exec_rxPush_full (b : Byte) (s : State) (h : s.rxLen.toNat = s.rxCap) :
    exec (.rxPush b) s = .next (finish .bufferFull s) := by simp [exec, execRxPush, h]

theorem exec_rxPush_room (b : Byte) (s : State) (h : s.rxLen.toNat ≠ s.rxCap) :
    exec (.rxPush b) s =
      .next (finish .ok { s with rx := s.rx.writeCell s.rxLen.toNat b, rxLen := s.rxLen + 1 }) := by
  simp [exec, execRxPush, h]

@[simp] theorem exec_decode (s : State) : exec .decode s = .next (examine decodeResponse s) := rfl

@[simp] theorem exec_parse (s : State) : exec .parse s = .next (examine addressAndValue s) := rfl

@[simp] theorem exec_srst (s : State) : exec .srst s = .next (blockReset s) := rfl

/-- The three ways through the common steps of DECODE and PARSE. -/
theorem examine_cases (body : State → State) (s : State) :
    (s.rxLen.toNat < 3 ∧ examine body s = finish .frameTooShort (clearResults s)) ∨
    (3 ≤ s.rxLen.toNat ∧ computedCrc s ≠ carriedCrc s ∧
      examine body s = finish .checksumMismatch (recordChecksum (clearResults s))) ∨
    (3 ≤ s.rxLen.toNat ∧ computedCrc s = carriedCrc s ∧ examine body s = body (recordChecksum (clearResults s))) := by
  unfold examine
  split
  · exact .inl ⟨‹_›, rfl⟩
  · have h3 : 3 ≤ s.rxLen.toNat := by omega
    split
    · exact .inr (.inl ⟨h3, ‹_›, rfl⟩)
    · exact .inr (.inr ⟨h3, not_not.mp ‹_›, rfl⟩)

/-- The two ways through a read response. -/
theorem readResponse_cases (s : State) :
    (s.rxLen.toNat < 3 + (s.rx.readCell 2).toNat + 2 ∧
      readResponse s = finish .truncatedPayload { s with resN := s.rx.readCell 2 }) ∨
    (3 + (s.rx.readCell 2).toNat + 2 ≤ s.rxLen.toNat ∧
      readResponse s = extractRegisters (s.rx.readCell 2).toNat { s with resN := s.rx.readCell 2 }) := by
  unfold readResponse
  split
  · exact .inl ⟨‹_›, rfl⟩
  · exact .inr ⟨by omega, rfl⟩

/-- The two ways through an 8-byte frame. -/
theorem addressAndValue_cases (s : State) :
    (s.rxLen.toNat ≠ 8 ∧ addressAndValue s = finish .lengthMismatch s) ∨
    (s.rxLen.toNat = 8 ∧
      addressAndValue s =
        finish .ok
          { s with
            resAddr := be16 (s.rx.readCell 2) (s.rx.readCell 3), resVal := be16 (s.rx.readCell 4) (s.rx.readCell 5)
            resValid := true }) := by
  unfold addressAndValue
  split
  · exact .inl ⟨‹_›, rfl⟩
  · exact .inr ⟨not_not.mp ‹_›, rfl⟩

/-- The three ways of DECODE's dispatch. -/
theorem decodeResponse_cases (s : State) :
    ((s.rx.readCell 1 = 0x03#8 ∨ s.rx.readCell 1 = 0x04#8) ∧ decodeResponse s = readResponse s) ∨
    (s.rx.readCell 1 = 0x06#8 ∧ decodeResponse s = addressAndValue s) ∨
    (s.rx.readCell 1 ≠ 0x03#8 ∧ s.rx.readCell 1 ≠ 0x04#8 ∧ s.rx.readCell 1 ≠ 0x06#8 ∧
      decodeResponse s = otherResponse s) := by
  unfold decodeResponse
  split
  · exact .inl ⟨‹_›, rfl⟩
  · rename_i h
    rw [not_or] at h
    split
    · exact .inr (.inl ⟨‹_›, rfl⟩)
    · exact .inr (.inr ⟨h.1, h.2, ‹_›, rfl⟩)

/-! ### The bus and the agents -/

/-- What an admitted host write can do. -/
theorem memWrite_cases {off : Nat} {v : Word} {s t : State} (h : memWrite off v s = .next t) :
    (off = cmdOffset ∧ v = srstWord ∧ t = blockReset s) ∨
    (off = statusOffset ∧ t = writeStatus v s) ∨
    (regAt s.rxCap off = none ∧ t = s) ∨
    (∃ r, regAt s.rxCap off = some r ∧ ¬ (off = cmdOffset ∧ v = srstWord) ∧ off ≠ statusOffset ∧
      busy s = true ∧ t = setOverrun s) ∨
    (∃ r, regAt s.rxCap off = some r ∧ ¬ (off = cmdOffset ∧ v = srstWord) ∧ off ≠ statusOffset ∧
      busy s = false ∧ t = writeReg v s r) := by
  unfold memWrite at h
  split at h
  · rename_i h1
    exact .inl ⟨h1.1, h1.2, by simpa using h.symm⟩
  · split at h
    · exact .inr (.inl ⟨‹_›, by simpa using h.symm⟩)
    · split at h
      · exact .inr (.inr (.inl ⟨‹_›, by simpa using h.symm⟩))
      · split at h
        · exact .inr (.inr (.inr (.inl ⟨_, ‹_›, ‹_›, ‹_›, ‹_›, by simpa using h.symm⟩)))
        · refine .inr (.inr (.inr (.inr ⟨_, ‹_›, ‹_›, ‹_›, ?_, by simpa using h.symm⟩)))
          simpa using ‹¬ busy s = true›

/-- What a host step can do. -/
theorem hostStep_cases {s t : State} (h : hostStep s = .next t) :
    (s.host = [] ∧ t = s) ∨
    (∃ off n rest, s.host = .rd off n :: rest ∧ refuseAccess off n = none ∧ t = memRead off { s with host := rest }) ∨
    (∃ off n v rest, s.host = .wr off n v :: rest ∧ refuseAccess off n = none ∧
      memWrite off v { s with host := rest } = .next t) ∨
    (∃ rest, s.host = .poll :: rest ∧ busy s = true ∧ t = s) ∨
    (∃ rest, s.host = .poll :: rest ∧ busy s = false ∧ t = { s with host := rest }) ∨
    (∃ rest, s.host = .powerOn :: rest ∧ t = blockReset { s with host := rest }) := by
  unfold hostStep at h
  split at h
  · exact .inl ⟨‹_›, by simpa using h.symm⟩
  · split at h
    · simp at h
    · exact .inr (.inl ⟨_, _, _, ‹_›, ‹_›, by simpa using h.symm⟩)
  · split at h
    · simp at h
    · exact .inr (.inr (.inl ⟨_, _, _, _, ‹_›, ‹_›, h⟩))
  · split at h
    · exact .inr (.inr (.inr (.inl ⟨_, ‹_›, ‹_›, by simpa using h.symm⟩)))
    · exact .inr (.inr (.inr (.inr (.inl ⟨_, ‹_›, by simpa using ‹¬ busy s = true›, by simpa using h.symm⟩))))
  · exact .inr (.inr (.inr (.inr (.inr ⟨_, ‹_›, by simpa using h.symm⟩))))

/-- What performing a word can do: an illegal word reports, any other runs its command. -/
theorem perform_cases {w : Word} {s t : State} (h : perform w s = .next t) :
    (∃ i, decode w = .ok i ∧ i ≠ .srst ∧ exec i s = .next t) ∨
    ((decode w = .ok .srst ∨ ∃ e, decode w = .error e) ∧ t = finish .illegalCommand s) := by
  unfold perform at h
  split at h
  · exact .inr ⟨.inl ‹_›, by simpa using h.symm⟩
  · rename_i i hi hd
    exact .inl ⟨i, hd, hi, h⟩
  · exact .inr ⟨.inr ⟨_, ‹_›⟩, by simpa using h.symm⟩

/-- What a step can do: the engine performs the pending word, or the host makes its next move. -/
theorem step_cases {s t : State} (h : step s = .next t) :
    (∃ w u, engineTurn s = some w ∧ perform w s = .next u ∧ t = clearPending u) ∨
    (engineTurn s = none ∧ hostStep { s with latency := s.latency - 1 } = .next t) := by
  unfold step agentStep engineStep at h
  split at h
  · rename_i w hw
    cases hp : perform w s with
    | next u => rw [hp] at h; exact .inl ⟨w, u, hw, hp, by simpa [andThen] using h.symm⟩
    | fault r => exact nomatch r
    | refused r => rw [hp] at h; simp [andThen] at h
  · exact .inr ⟨‹_›, h⟩

/-- The engine moves only with the pending word. -/
theorem engineTurn_eq_some {s : State} {w : Word} (h : engineTurn s = some w) :
    s.pending = some w ∧ (s.latency = 0 ∨ s.host = []) := by
  unfold engineTurn at h
  split at h
  · split at h
    · obtain rfl := Option.some.inj h; exact ⟨‹_›, ‹_›⟩
    · simp at h
  · simp at h

end Sys2Proof.Machine
end

