-- ==== Sys2Proof/Tests/Slice0.lean ====
section
/-! SUPPORT. Tests: the well-formedness checks, words written out from R93, vectors of 95_test_vectors.md, and for each
statement with hypotheses a concrete case that meets them. Expected values are the spec's; each test names its source. -/

namespace Sys2Proof.Machine.Tests

/-! ### Small states -/

/-- The reset state with a sequence in RX. -/
def loaded (bytes : List Byte) : State :=
  { State.reset with rx := Memory.writeRange [] 0 bytes, rxLen := BitVec.ofNat 10 bytes.length }

/-- The reset state with the four operand registers set. -/
def withOperands (d f a v : Word) : State := { State.reset with opDev := d, opFn := f, opAddr := a, opVal := v }

/-- The reset state with a word pending, so many host accesses to come before the engine, and a host program. -/
def pendingState (w : Word) (latency : Nat) (host : List HostEvent) : State :=
  { State.reset with pending := some w, latency := latency, host := host }

/-- Whether an outcome is a next state of which a test holds. -/
def nextSuch (o : Host.Outcome State Fault Refusal) (p : State → Bool) : Bool :=
  match o with
  | .next t => p t
  | .fault _ => false
  | .refused _ => false

/-- The very next step runs the command of a word. -/
def runWord (w : Nat) (s : State) (p : State → Bool) : Bool := nextSuch (step (s.withFetchWord 32 w)) p

/-- W1's frame. -/
def writeFrame : List Byte := [0x01, 0x06, 0x00, 0x01, 0x00, 0x01, 0x19, 0xCA]

/-- W4's frame. -/
def readFrame : List Byte := [0x01, 0x03, 0x04, 0x00, 0x0A, 0x00, 0x14, 0xDA, 0x3E]

/-! ### Well-formedness: for each check a word it refuses (95_test_vectors.md 2.7) -/

theorem test_reserved_bit_refused :
    reservedZero 0x00010001#32 = false ∧ legalWord 0x00010001#32 = false := by decide

theorem test_unassigned_opcode_refused :
    opcodeAssigned 0x00000042#32 = false ∧ legalWord 0x00000042#32 = false := by decide

theorem test_immediate_refused :
    immediateAllowed 0x00000103#32 = false ∧ legalWord 0x00000103#32 = false := by decide

theorem test_inexact_srst_refused :
    srstExact 0x000001FF#32 = false ∧ legalWord 0x000001FF#32 = false := by decide

theorem test_legal_words_accepted :
    legalWord 0x0000FF02#32 = true ∧ legalWord 0x000000FF#32 = true ∧ legalWord 0x00000000#32 = true := by decide

/-! ### Decoding: words written bit by bit from R90 and R93 -/

theorem test_decode_control :
    decode 0b00000000000000000000000000000000#32 = .ok .nop ∧
      decode 0b00000000000000000000000011111111#32 = .ok .srst := by decide

theorem test_decode_crc :
    decode 0b00000000000000000000000000000001#32 = .ok .crcInit ∧
      decode 0b00000000000000001000000100000010#32 = .ok (.crcByte 0x81#8) ∧
      decode 0b00000000000000000000000000000011#32 = .ok .crcRx := by decide

theorem test_decode_frame_encoder :
    decode 0b00000000000000000000000000010000#32 = .ok .encode := by decide

theorem test_decode_rx_buffer :
    decode 0b00000000000000000000000000010001#32 = .ok .loopback ∧
      decode 0b00000000000000000000000000100000#32 = .ok .rxClear ∧
      decode 0b00000000000000000000000100100001#32 = .ok (.rxPush 0x01#8) := by decide

theorem test_decode_frame_decoder :
    decode 0b00000000000000000000000000110000#32 = .ok .decode ∧
      decode 0b00000000000000000000000000110001#32 = .ok .parse := by decide

theorem test_decode_table_word :
    decodeTableWord 32 0x00000121 = some (.rxPush 0x01#8) ∧ decodeTableWord 32 0x00003030 = none := by decide

/-! ### One step of each command (95_test_vectors.md 2.1 to 2.7) -/

/-- 2.7, first row: NOP after ERR 3. -/
theorem test_nop :
    runWord 0x00000000 { State.reset with err := .checksumMismatch }
      (fun t => decide (t = State.reset)) = true := by decide

/-- 2.1, last paragraph. -/
theorem test_crcInit :
    runWord 0x00000001 { State.reset with crcAcc := 0x1234 } (fun t => decide (t = State.reset)) = true := by decide

/-- 2.1, the row 0xFFFF, 0x80. -/
theorem test_crcByte :
    runWord 0x00008002 State.reset (fun t => decide (t.crcAcc = 0xE0BE#16 ∧ t.err = .ok)) = true := by decide +kernel

/-- R120 worked by hand: one round takes 0xC001 to (0xC001 >> 1) ^ 0xA001 = 0xC001, so a byte 0x00 leaves it (log 21). -/
theorem test_crcByte_fixed_point : crcShift 0xC001#16 = 0xC001#16 ∧ crcStep 0xC001#16 0x00#8 = 0xC001#16 := by
  decide +kernel

/-- 2.1, the corrupted frame. -/
theorem test_crcRx :
    runWord 0x00000003 (loaded [0x01, 0x06, 0x00, 0x01, 0x00, 0x01, 0x19, 0xCB])
      (fun t => decide (t.crcAcc = 0xC0C1#16 ∧ t.err = .ok)) = true := by decide +kernel

/-- 2.2, fourth row. -/
theorem test_encode :
    runWord 0x00000010 (withOperands 0x01 0x10 0x1234 0xABCD)
      (fun t => decide (txBytes t = [0x01, 0x10, 0x12, 0x34, 0xAB, 0xCD, 0x3A, 0x1A] ∧ t.err = .ok)) = true := by
  decide +kernel

/-- 2.2, the row with OP_ADDR 0x10000. -/
theorem test_encode_rejected :
    runWord 0x00000010 { withOperands 0x01 0x06 0x10000 0x0001 with tx := [(0, 0xAA)], txLen := 8 }
      (fun t => decide (t.tx = [(0, 0xAA)] ∧ t.txLen = 0 ∧ t.err = .encodingError)) = true := by decide

/-- 2.3, the row with TX_LEN 8. -/
theorem test_loopback :
    runWord 0x00000011 { State.reset with tx := Memory.writeRange [] 0 writeFrame, txLen := 8 }
      (fun t => decide (rxBytes t = writeFrame ∧ t.err = .ok)) = true := by decide

/-- 2.3, the row with TX_LEN 0. -/
theorem test_loopback_empty :
    runWord 0x00000011 (loaded [0x55]) (fun t => decide (t.rxLen = 0 ∧ t.rx.readCell 0 = 0x55#8)) = true := by decide

/-- 2.3, the row RX_CLEAR. -/
theorem test_rxClear :
    runWord 0x00000020 (loaded readFrame)
      (fun t => decide (t.rxLen = 0 ∧ t.rx.readCell 0 = 0x01#8 ∧ t.err = .ok)) = true := by decide

/-- 2.3, the row with RX_LEN 259. -/
theorem test_rxPush_last :
    runWord 0x00005521 { State.reset with rxLen := 259 }
      (fun t => decide (t.rx.readCell 259 = 0x55#8 ∧ t.rxLen = 260 ∧ t.err = .ok)) = true := by decide +kernel

/-- 2.3, the row with RX_LEN 260. -/
theorem test_rxPush_full :
    runWord 0x00005521 { State.reset with rxLen := 260 }
      (fun t => decide (t.rx = [] ∧ t.rxLen = 260 ∧ t.err = .bufferFull)) = true := by decide +kernel

/-- 2.4, D6. -/
theorem test_decode_read :
    runWord 0x00000030 (loaded readFrame)
      (fun t => decide (t.err = .ok ∧ t.resValid = true ∧ t.resN = 4 ∧ t.regCount = 2 ∧
        t.regs = [(0, 0x000A), (1, 0x0014)] ∧ t.resCrc = 0x3EDA#16)) = true := by decide +kernel

/-- 2.4, D17. -/
theorem test_decode_crc_swapped :
    runWord 0x00000030 (loaded [0x01, 0x06, 0x00, 0x01, 0x00, 0x01, 0xCA, 0x19])
      (fun t => decide (t.err = .checksumMismatch ∧ t.resFn = 0x06#8 ∧ t.resVal = 0 ∧ t.resCrc = 0xCA19#16 ∧
        t.resRxcrc = 0x19CA#16 ∧ t.resValid = false)) = true := by decide +kernel

/-- 2.5, fourth row. -/
theorem test_parse :
    runWord 0x00000031 (loaded [0x01, 0x03, 0x03, 0x00, 0x0A, 0x00, 0x43, 0x2E])
      (fun t => decide (t.err = .ok ∧ t.resDev = 0x01#8 ∧ t.resFn = 0x03#8 ∧ t.resAddr = 0x0300#16 ∧
        t.resVal = 0x0A00#16)) = true := by decide +kernel

/-- 2.5, sixth row. -/
theorem test_parse_length :
    runWord 0x00000031 (loaded readFrame)
      (fun t => decide (t.err = .lengthMismatch ∧ t.resDev = 0x01#8 ∧ t.resFn = 0x03#8 ∧ t.resAddr = 0)) = true := by
  decide +kernel

/-- 2.7, the row of SRST. -/
theorem test_srst :
    runWord 0x000000FF { loaded readFrame with ovr := true, crcAcc := 0x1234 }
      (fun t => decide (statusWord t = 0 ∧ t.rxLen = 0 ∧ t.crcAcc = 0xFFFF#16)) = true := by decide

/-- 2.7, the row of 0x000001FF: accepted as pending, then ERR 7. -/
theorem test_inexact_srst :
    runWord 0x000001FF (loaded readFrame) (fun t => decide (t = { loaded readFrame with err := .illegalCommand })) = true := by
  decide

/-- 2.7: `rd ID`. -/
theorem test_read_id :
    nextSuch (step { State.reset with host := [.rd 0x008 4] })
      (fun t => decide (t.reads = [(0x008, 0x4D420001#32)])) = true := by decide

/-- 2.7: `wr STATUS, 0xFFFFFFFF` with OVR 1, ERR 3. -/
theorem test_clear_overrun :
    nextSuch (step { State.reset with ovr := true, err := .checksumMismatch, host := [.wr 0x004 4 0xFFFFFFFF#32] })
      (fun t => decide (t.ovr = false ∧ t.err = .checksumMismatch)) = true := by decide

/-- 2.7: a write to OP_VAL while BUSY. -/
theorem test_write_while_busy :
    nextSuch (step (pendingState 0x00000030#32 1 [.wr 0x01C 4 0x5#32]))
      (fun t => decide (t.ovr = true ∧ t.opVal = 0 ∧ t.pending = some 0x00000030#32)) = true := by decide

/-- P2, first statement (95_test_vectors.md 3). -/
theorem test_setop :
    assemble 260 (.setop 0x01 0x06 0x0001 0x0BB7) =
      .ok [.wr 0x010 4 0x1#32, .wr 0x014 4 0x6#32, .wr 0x018 4 0x1#32, .wr 0x01C 4 0xBB7#32] := by decide

/-! ### Cases that meet the hypotheses of the statements -/

theorem witness_ResetTableAtPowerOnAndSrst :
    ({ loaded readFrame with host := [.powerOn, .poll] } : State).host = .powerOn :: [.poll] := by decide

/-- SRST, and the power-on reset. -/
theorem witness_ResetWhileBusyDiscardsPending :
    (let s := pendingState 0x00000030#32 1 [.wr 0x000 4 0x000000FF#32];
      s.pending = some 0x00000030#32 ∧ 0 < s.latency ∧ s.host = [.wr 0x000 4 0x000000FF#32] ∧
        (HostEvent.wr 0x000 4 0x000000FF#32).resets = true) ∧
    (let s := pendingState 0x00000010#32 1 [.powerOn];
      s.pending = some 0x00000010#32 ∧ 0 < s.latency ∧ s.host = [.powerOn] ∧ HostEvent.powerOn.resets = true) := by decide

/-- By the engine, and by the power-on reset. -/
theorem witness_SoftResetInsideTheCmdWrite :
    (∃ t, step (pendingState 0x00000030#32 0 []) = .next t ∧
      (pendingState 0x00000030#32 0 []).pending = some 0x00000030#32 ∧ t.pending ≠ some 0x00000030#32) ∧
    ∃ t, step (pendingState 0x00000030#32 1 [.powerOn]) = .next t ∧
      (pendingState 0x00000030#32 1 [.powerOn]).pending = some 0x00000030#32 ∧ t.pending ≠ some 0x00000030#32 :=
  ⟨⟨_, rfl, rfl, by decide⟩, _, rfl, rfl, by decide⟩

theorem witness_DecodeIffEncode :
    decode 0x0000FF21#32 = .ok (.rxPush 0xFF#8) ∧ encode (.rxPush 0xFF#8) = 0x0000FF21#32 := by decide

/-- One word for each of R96's points, and the words next to them that are legal. -/
theorem witness_IllegalWordsReportAndChangeNothing :
    (∃ e, decode 0x00010000#32 = .error e) ∧ (∃ e, decode 0x00000004#32 = .error e) ∧
    (∃ e, decode 0x00000103#32 = .error e) ∧ (∃ e, decode 0x000001FF#32 = .error e) ∧
    legalWord 0x00010000#32 = false ∧ legalWord 0x000000FF#32 = true :=
  ⟨⟨_, rfl⟩, ⟨_, rfl⟩, ⟨_, rfl⟩, ⟨_, rfl⟩, by decide, by decide⟩

theorem witness_SrstOnlyAsExactWord :
    (∃ t, memWrite 0x000 0x000000FF#32 (pendingState 0x00000030#32 1 []) = .next t) ∧
    (opcField 0x000001FF#32 = 0xFF#8 ∧ 0x000001FF#32 ≠ 0x000000FF#32 ∧ State.reset.pending = none) ∧
    (∃ t, step (pendingState 0x000001FF#32 0 []) = .next t ∧
      (pendingState 0x000001FF#32 0 []).pending ≠ some 0x000000FF#32) :=
  ⟨⟨_, rfl⟩, by decide, _, rfl, by decide⟩

/-- A word for each clause, at the lowest reserved bit, the lowest immediate, and unassigned opcodes. -/
theorem witness_PerformDispatch :
    (0x00010000#32).extractLsb' 16 16 ≠ 0#16 ∧
    ((0x0000FF02#32).extractLsb' 16 16 = 0#16 ∧ (0x0000FF02#32).extractLsb' 0 8 = 0x02#8) ∧
    ((0x00000021#32).extractLsb' 16 16 = 0#16 ∧ (0x00000021#32).extractLsb' 0 8 = 0x21#8) ∧
    (∀ o ∈ [0x00#8, 0x01#8, 0x03#8, 0x10#8, 0x11#8, 0x20#8, 0x30#8, 0x31#8],
      (commandWord o 0#8).extractLsb' 16 16 = 0#16 ∧ (commandWord o 0#8).extractLsb' 0 8 = o ∧
        (commandWord o 0#8).extractLsb' 8 8 = 0#8 ∧ (commandWord o 1#8).extractLsb' 16 16 = 0#16 ∧
        (commandWord o 1#8).extractLsb' 0 8 = o ∧ (commandWord o 1#8).extractLsb' 8 8 ≠ 0#8) ∧
    ((0x00000004#32).extractLsb' 16 16 = 0#16 ∧ (0x00000004#32).extractLsb' 0 8 = 0x04#8 ∧
      0x04#8 ∉ [0x00#8, 0x01#8, 0x02#8, 0x03#8, 0x10#8, 0x11#8, 0x20#8, 0x21#8, 0x30#8, 0x31#8]) := by decide

/-- The countdown is over, the host has nothing to do; a legal word, an illegal one. -/
theorem witness_EngineStepRunsPendingCommand :
    (let s := pendingState 0x00000030#32 0 [.poll];
      s.pending = some 0x00000030#32 ∧ s.latency = 0 ∧ decode 0x00000030#32 = .ok .decode ∧ Instr.decode ≠ .srst) ∧
    (let s := pendingState 0x00003030#32 5 [];
      s.pending = some 0x00003030#32 ∧ s.host = [] ∧
        decode 0x00003030#32 = .error (.immediateNotZero 0x30#8 0x30#8)) ∧
    ∃ t, exec .decode (pendingState 0x00000030#32 0 [.poll]) = .next t :=
  ⟨by decide, by decide, _, rfl⟩

/-- Each clause: nothing to do; a read and a write at the last offset of the window; SRST; a poll idle and busy. -/
theorem witness_HostStepRunsNextAccess :
    (State.reset.pending = none ∧ State.reset.host = [] ∧ State.reset.latency = 0) ∧
    ({ State.reset with host := [.rd 0xFFC 4] } : State).host = .rd 0xFFC 4 :: [] ∧
    ({ State.reset with host := [.wr 0xFFC 4 1#32] } : State).host = .wr 0xFFC 4 1#32 :: [] ∧
    (0xFFC % 4 = 0 ∧ 0xFFC ≤ 0xFFC) ∧
    (let s := pendingState 0x00000030#32 1 [.wr 0x000 4 0x000000FF#32];
      0 < s.latency ∧ s.host ≠ [] ∧ s.host = .wr 0x000 4 0x000000FF#32 :: []) ∧
    (let s : State := { State.reset with host := [.poll] };
      s.host = .poll :: [] ∧ s.pending = none) ∧
    (let s := pendingState 0x00000030#32 1 [.poll];
      0 < s.latency ∧ s.host = .poll :: [] ∧ s.pending ≠ none) := by decide

/-- Refused: two bytes, offset 2, offset 0x1000. Not refused: four bytes at 0xFFC. -/
theorem witness_RefusedExactlyWhenNotAdmitted :
    step { State.reset with host := [.rd 0x004 2] } = .refused (.accessWidth 2) ∧
    step { State.reset with host := [.wr 0x002 4 1#32] } = .refused (.misalignedAccess 0x002) ∧
    step { State.reset with host := [.rd 0x1000 4] } = .refused (.outsideWindow 0x1000) ∧
    ∃ t, step { State.reset with host := [.rd 0xFFC 4] } = .next t :=
  ⟨rfl, rfl, rfl, _, rfl⟩

theorem witness_EveryCommandCompletes : Instr.rxPush 0x55#8 ≠ .srst := by decide

theorem witness_CommandsWriteOnlyTheirState :
    ∃ t, exec .nop (loaded readFrame) = .next t ∧ Instr.nop ≠ .srst ∧ Instr.nop ≠ .crcInit ∧ Instr.nop ≠ .crcRx ∧
      (∀ b, Instr.nop ≠ .crcByte b) ∧ Instr.nop ≠ .encode ∧ (∀ b, Instr.nop ≠ .rxPush b) ∧ Instr.nop ≠ .loopback ∧
      Instr.nop ≠ .rxClear ∧ Instr.nop ≠ .decode ∧ Instr.nop ≠ .parse :=
  ⟨_, rfl, by decide, by decide, by decide, nofun, by decide, nofun, by decide, by decide, by decide, by decide⟩

/-- The capacities at the ends of the legal range. -/
theorem witness_ResetMeetsInvariant : (8 ≤ 8 ∧ 8 ≤ 768) ∧ (8 ≤ 768 ∧ 768 ≤ 768) := by decide

/-- A full buffer and a pending command. -/
theorem witness_StepKeepsInvariant :
    ∃ t, State.Inv { loaded writeFrame with rxCap := 8, pending := some 0x00000030#32 } ∧
      step { loaded writeFrame with rxCap := 8, pending := some 0x00000030#32 } = .next t :=
  ⟨_, by decide +kernel, rfl⟩

theorem witness_PendingCommandLeavesThePort :
    (pendingState 0x00000030#32 3 [.rd 0x004 4, .wr 0x01C 4 1#32, .poll]).pending = some 0x00000030#32 ∧
    ∀ e ∈ (pendingState 0x00000030#32 3 [.rd 0x004 4, .wr 0x01C 4 1#32, .poll]).host, e.admitted = true := by decide

theorem witness_CommandMnemonicPerformsCommand :
    Instr.decode ≠ .srst ∧
    (let s : State := { loaded readFrame with host := asmCommand .decode ++ [.rd 0x004 4] };
      s.pending = none ∧ s.host = asmCommand .decode ++ [.rd 0x004 4]) := by decide

theorem witness_CrcInitSetsAccumulator : opcField 0x00000101#32 = 0x01#8 ∧ 0x00000101#32 ≠ 0x00000001#32 := by decide

theorem witness_CrcByteFoldsOneByte : opcField 0x00010002#32 = 0x02#8 ∧ rsvField 0x00010002#32 ≠ 0#16 := by decide

/-- An empty buffer, a whole frame, and the shortest buffer that carries a CRC: that of no bytes. -/
theorem witness_CrcRxComputesBufferCrc :
    (opcField 0x00000103#32 = 0x03#8 ∧ 0x00000103#32 ≠ 0x00000003#32) ∧ State.reset.rxLen = 0 ∧
    (2 ≤ (loaded writeFrame).rxLen.toNat ∧ computedCrc (loaded writeFrame) = carriedCrc (loaded writeFrame)) ∧
    (2 ≤ (loaded [0xFF, 0xFF]).rxLen.toNat ∧
      computedCrc (loaded [0xFF, 0xFF]) = carriedCrc (loaded [0xFF, 0xFF])) := by decide +kernel

/-- 2.1, the residue row of W1's frame. -/
theorem witness_CrcResidueIsZero : crc16 ([0x01, 0x06, 0x00, 0x01, 0x00, 0x01] ++ [0x19, 0xCA]) = 0x0000#16 := by
  decide +kernel

theorem witness_CrcDetectsSingleBitError : 0 < 8 ∧ 7 < 8 := by decide

/-- Each operand one above its field, and all four at the top of theirs. -/
theorem witness_EncodeBuildsFrameOrRejects :
    (opcField 0x00000110#32 = 0x10#8 ∧ 0x00000110#32 ≠ 0x00000010#32) ∧
    0xFF < (withOperands 0x100 0 0 0).opDev.toNat ∧ 0xFF < (withOperands 0 0x100 0 0).opFn.toNat ∧
    0xFFFF < (withOperands 0 0 0x10000 0).opAddr.toNat ∧ 0xFFFF < (withOperands 0 0 0 0x10000).opVal.toNat ∧
    (let s := withOperands 0xFF 0xFF 0xFFFF 0xFFFF;
      s.opDev = (0xFF#8).setWidth 32 ∧ s.opFn = (0xFF#8).setWidth 32 ∧ s.opAddr = (0xFFFF#16).setWidth 32 ∧
        s.opVal = (0xFFFF#16).setWidth 32) := by decide

theorem witness_FrameRoundTrip :
    State.reset.pending = none ∧ (loaded writeFrame).rxLen = 8 ∧
    ∃ t, exec .parse (loaded writeFrame) = .next t ∧ t.err = .ok :=
  ⟨by decide, by decide, _, rfl, by decide +kernel⟩

theorem witness_LoopbackCopiesTx : opcField 0x00000111#32 = 0x11#8 ∧ 0x00000111#32 ≠ 0x00000011#32 := by decide

theorem witness_RxClearKeepsBytes : opcField 0x00000120#32 = 0x20#8 ∧ 0x00000120#32 ≠ 0x00000020#32 := by decide

/-- Full at 8 of 8; room for one at 7 of 8 and at 767 of 768. -/
theorem witness_RxPushAppendsOrReportsFull :
    (opcField 0x00010021#32 = 0x21#8 ∧ rsvField 0x00010021#32 ≠ 0#16) ∧
    (let s : State := { State.resetWith 8 with rxLen := 8 };
      s.rxLen.toNat = s.rxCap) ∧
    (let s : State := { State.resetWith 8 with rxLen := 7 };
      s.rxLen.toNat < s.rxCap ∧ s.rxCap ≤ 768) ∧
    (let s : State := { State.resetWith 768 with rxLen := 767 };
      s.rxLen.toNat < s.rxCap ∧ s.rxCap ≤ 768) := by decide +kernel

theorem witness_LoadedBytesAreInRx :
    (State.resetWith 8).rxCap ≤ 768 ∧ writeFrame.length ≤ (State.resetWith 8).rxCap ∧
      writeFrame.length = (State.resetWith 8).rxCap := by decide

/-- Two bytes; three bytes with the CRC right (D4) and wrong. -/
theorem witness_CommonStepsOfDecodeAndParse :
    (loaded [0xFF, 0xFF]).rxLen.toNat < 3 ∧
    (let s := loaded [0x01, 0x7E, 0x80];
      3 ≤ s.rxLen.toNat ∧ crc16 (s.rx.readRange 0 (s.rxLen.toNat - 2)) =
        ((s.rx.readCell (s.rxLen.toNat - 2)).setWidth 16 |||
          (s.rx.readCell (s.rxLen.toNat - 1)).setWidth 16 <<< 8)) ∧
    (let s := loaded [0x01, 0x7E, 0x81];
      3 ≤ s.rxLen.toNat ∧ crc16 (s.rx.readRange 0 (s.rxLen.toNat - 2)) ≠
        ((s.rx.readCell (s.rxLen.toNat - 2)).setWidth 16 |||
          (s.rx.readCell (s.rxLen.toNat - 1)).setWidth 16 <<< 8)) := by decide +kernel

theorem witness_DecodeCompletesAndKeepsBuffers : opcField 0x00003030#32 = 0x30#8 ∧ 0x00003030#32 ≠ 0x00000030#32 := by
  decide

/-- A payload one byte short, and one of exactly the length its byte count says (D6). -/
theorem witness_DecodeReadResponse :
    (let s := loaded [0x01, 0x03, 0x04, 0x00, 0x0A, 0x00, 0x42, 0x5A];
      3 ≤ s.rxLen.toNat ∧ computedCrc s = carriedCrc s ∧ s.rx.readCell 1 = 0x03#8 ∧
        s.rxLen.toNat + 1 = 3 + (s.rx.readCell 2).toNat + 2) ∧
    (let s := loaded readFrame;
      3 ≤ s.rxLen.toNat ∧ computedCrc s = carriedCrc s ∧ s.rx.readCell 1 = 0x03#8 ∧
        3 + (s.rx.readCell 2).toNat + 2 = s.rxLen.toNat) := by decide +kernel

/-- D13 (7 bytes), D12 (8 bytes), D14 (9 bytes). -/
theorem witness_DecodeWriteResponse :
    (let s := loaded [0x01, 0x06, 0x00, 0x01, 0x00, 0x18, 0xD8];
      3 ≤ s.rxLen.toNat ∧ computedCrc s = carriedCrc s ∧ s.rx.readCell 1 = 0x06#8 ∧ s.rxLen.toNat ≠ 8) ∧
    (let s := loaded writeFrame;
      3 ≤ s.rxLen.toNat ∧ computedCrc s = carriedCrc s ∧ s.rx.readCell 1 = 0x06#8 ∧ s.rxLen.toNat = 8) ∧
    (let s := loaded [0x01, 0x06, 0x00, 0x01, 0x00, 0x01, 0x00, 0x0B, 0xCA];
      3 ≤ s.rxLen.toNat ∧ computedCrc s = carriedCrc s ∧ s.rx.readCell 1 = 0x06#8 ∧ s.rxLen.toNat ≠ 8) := by
  decide +kernel

/-- D15. -/
theorem witness_DecodeOtherFunctionCodes :
    let s := loaded [0x01, 0x86, 0x02, 0xC3, 0xA1]
    3 ≤ s.rxLen.toNat ∧ computedCrc s = carriedCrc s ∧ s.rx.readCell 1 ≠ 0x03#8 ∧ s.rx.readCell 1 ≠ 0x04#8 ∧
      s.rx.readCell 1 ≠ 0x06#8 := by decide +kernel

theorem witness_ParseReadsAnyFrame :
    (opcField 0x00000131#32 = 0x31#8 ∧ 0x00000131#32 ≠ 0x00000031#32) ∧
    (loaded [0xFF, 0xFF]).rxLen.toNat < 3 ∧
    (let s := loaded [0x01, 0x7E, 0x81];
      3 ≤ s.rxLen.toNat ∧ computedCrc s ≠ carriedCrc s) ∧
    (loaded writeFrame).rx.readCell 1 = 0x06#8 ∧
    (let s := loaded [0x01, 0x7E, 0x80];
      3 ≤ s.rxLen.toNat ∧ computedCrc s = carriedCrc s ∧ s.rxLen.toNat ≠ 8) ∧
    (let s := loaded writeFrame;
      3 ≤ s.rxLen.toNat ∧ computedCrc s = carriedCrc s ∧ s.rxLen.toNat = 8) := by decide +kernel

/-- D6 and D12. -/
theorem witness_AcceptedFrameLaw :
    (∃ t, exec .decode (loaded readFrame) = .next t ∧ t.err = .ok ∧ t.resFn = 0x03#8) ∧
    ∃ t, exec .decode (loaded writeFrame) = .next t ∧ t.err = .ok ∧ t.resFn = 0x06#8 :=
  ⟨⟨_, rfl, by decide +kernel⟩, _, rfl, by decide +kernel⟩

/-- The shortest frame (D4), its first and its last bit. -/
theorem witness_SingleBitFlipIsReported :
    let s := loaded [0x01, 0x7E, 0x80]
    3 ≤ s.rxLen.toNat ∧ computedCrc s = carriedCrc s ∧ (0 < s.rxLen.toNat ∧ 0 < 8) ∧ (2 < s.rxLen.toNat ∧ 7 < 8) := by
  decide +kernel

/-- After RX_CLEAR: the old bytes differ, and the first push runs. -/
theorem witness_StaleBytesAreNeverRead :
    ∃ t, SameButStale { loaded [0xAA] with rxLen := 0 } State.reset ∧
      ({ loaded [0xAA] with rxLen := 0 } : State) ≠ State.reset ∧
      exec (.rxPush 0x01#8) { loaded [0xAA] with rxLen := 0 } = .next t :=
  ⟨_, ⟨rfl, fun i h => absurd h (Nat.not_lt_zero i), fun i h => absurd h (Nat.not_lt_zero i)⟩, by decide, rfl⟩

theorem witness_NopOnlyWritesErr : opcField 0x00000100#32 = 0x00#8 ∧ 0x00000100#32 ≠ 0x00000000#32 := by decide

/-- Each code is reached: 1, 2, 3 (D16), 4 (D9), 5 (D13), 6, and 7 by an illegal word. -/
theorem witness_StatusCodesAndTheirCauses :
    decode 0x00000042#32 = .error (.unassignedOpcode 0x42#8) ∧
    (∃ t, exec .encode (withOperands 0x100 0 0 0) = .next t ∧ t.err = .encodingError) ∧
    (∃ t, exec .decode State.reset = .next t ∧ t.err = .frameTooShort) ∧
    (∃ t, exec .parse (loaded [0x01, 0x06, 0x00, 0x01, 0x00, 0x01, 0x19, 0xCB]) = .next t ∧
      t.err = .checksumMismatch) ∧
    (∃ t, exec .decode (loaded [0x01, 0x03, 0x04, 0x00, 0x0A, 0xD8, 0x42]) = .next t ∧ t.err = .truncatedPayload) ∧
    (∃ t, exec .decode (loaded [0x01, 0x06, 0x00, 0x01, 0x00, 0x18, 0xD8]) = .next t ∧ t.err = .lengthMismatch) ∧
    ∃ t, exec (.rxPush 0x3E#8) { loaded writeFrame with rxCap := 8 } = .next t ∧ t.err = .bufferFull :=
  ⟨rfl, ⟨_, rfl, by decide⟩, ⟨_, rfl, by decide⟩, ⟨_, rfl, by decide +kernel⟩, ⟨_, rfl, by decide +kernel⟩,
    ⟨_, rfl, by decide +kernel⟩, _, rfl, by decide⟩

theorem witness_FailureKeepsReceivedBytes :
    ∃ t, exec (.rxPush 0x3E#8) { loaded writeFrame with rxCap := 8 } = .next t ∧ t.err ≠ .ok :=
  ⟨_, rfl, by decide⟩

/-- By DECODE, and by the host's SRST; a DECODE and a PARSE. -/
theorem witness_ResValidWriters :
    (∃ t, exec .decode State.reset = .next t) ∧ (∃ t, exec .parse State.reset = .next t) ∧
    (∃ t, step { loaded readFrame with pending := some 0x00000030#32 } = .next t ∧ t.resValid ≠ false) ∧
    ∃ t, step { State.reset with resValid := true, host := [.wr 0x000 4 0x000000FF#32] } = .next t ∧
      t.resValid ≠ true :=
  ⟨⟨_, rfl⟩, ⟨_, rfl⟩, ⟨_, rfl, by decide +kernel⟩, _, rfl, by decide⟩

/-- Set by a write while BUSY, whose conditions all hold; cleared by a write to STATUS. -/
theorem witness_OverrunSetAndCleared :
    (let s := pendingState 0x00000030#32 1 [.wr 0x000 4 0x00000003#32];
      engineTurn s = none ∧ s.pending ≠ none ∧ s.host = .wr 0x000 4 0x00000003#32 :: [] ∧
        regAt s.rxCap 0x000 ≠ none ∧ 0x000 ≠ 0x004 ∧ ¬ (0x000 = 0x000 ∧ 0x00000003#32 = 0x000000FF#32)) ∧
    (∃ t, (pendingState 0x00000030#32 1 [.wr 0x000 4 0x00000003#32]).ovr = false ∧
      step (pendingState 0x00000030#32 1 [.wr 0x000 4 0x00000003#32]) = .next t ∧ t.ovr = true) ∧
    ∃ t, step { State.reset with ovr := true, host := [.wr 0x004 4 0x00000004#32] } = .next t ∧ t.ovr = false :=
  ⟨by decide, ⟨_, rfl, rfl, by decide⟩, _, rfl, by decide⟩

/-- An idle write of OP_DEV. -/
theorem witness_OperandRegisterWriters :
    State.reset.pending = none ∧
    ∃ t, step { State.reset with host := [.wr 0x010 4 0xFFFFFFFF#32] } = .next t ∧ t.opDev ≠ 0 :=
  ⟨rfl, _, rfl, by decide⟩

theorem witness_IdleReadValues : State.reset.pending = none ∧ 0 < 8 ∧ 126 < 127 ∧ 259 < State.reset.rxCap := by decide

/-- The last mapped offset, CRC_ACC, and one that is exact. -/
theorem witness_BusyReads :
    let s := pendingState 0x00000030#32 1 []
    s.pending ≠ none ∧ regAt s.rxCap 0x80C = some (.rx 259) ∧ isDraw s 0x80C = true ∧
      regAt s.rxCap 0x020 = some .crcAcc ∧ isDraw s 0x020 = true ∧ regAt s.rxCap 0x01C = some .opVal ∧
      isDraw s 0x01C = false := by decide +kernel

theorem witness_ReadsHaveNoSideEffect :
    ∃ t, engineTurn { loaded readFrame with host := [.rd 0x028 4] } = none ∧
      step { loaded readFrame with host := [.rd 0x028 4] } = .next t :=
  ⟨_, by decide, rfl⟩

/-- The holes next to mapped registers, the first offset above RX and the last of the window. -/
theorem witness_UnmappedOffsets :
    ∀ off ∈ [0x00C, 0x04C, 0x07C, 0x0A0, 0x0FC, 0x2FC, 0x3FC, 0x810, 0xFFC],
      off % 4 = 0 ∧ off ≤ 0xFFC ∧ regAt 260 off = none := by decide +kernel

theorem witness_HostWriteCases :
    ({ State.reset with host := [.wr 0x002 4 0#32] } : State).host = .wr 0x002 4 0#32 :: [] ∧ 0x002 % 4 ≠ 0 ∧
    0xFFC < 0x1000 ∧ (0xFFC % 4 = 0 ∧ 0xFFC ≤ 0xFFC) ∧ (0x00C % 4 = 0 ∧ 0x00C ≤ 0xFFC ∧ regAt 260 0x00C = none) ∧
    (0x000 ≠ 0x004 ∧ regAt 260 0x000 ≠ none ∧ ¬ (0x000 = 0x000 ∧ 0x00000003#32 = 0x000000FF#32) ∧
      (pendingState 0x00000030#32 1 []).pending ≠ none) ∧
    (State.reset.pending = none ∧ 0x00000003#32 ≠ 0x000000FF#32 ∧
      0x020 ∉ [0x000, 0x004, 0x010, 0x014, 0x018, 0x01C]) := by decide

theorem witness_BusyWriteIsIgnored :
    let s := pendingState 0x00000030#32 1 [.wr 0x01C 4 0x5#32]
    s.pending = some 0x00000030#32 ∧ 0 < s.latency ∧ s.host = .wr 0x01C 4 0x5#32 :: [] ∧ 0x01C % 4 = 0 ∧
      0x01C ≤ 0xFFC ∧ regAt s.rxCap 0x01C ≠ none ∧ 0x01C ≠ 0x004 ∧ ¬ (0x01C = 0x000 ∧ 0x5#32 = 0x000000FF#32) := by
  decide

/-- The byte operands at and above the top, and a word at the top. -/
theorem witness_MnemonicsAndPseudoInstructions :
    255 ≤ 255 ∧ 255 < 256 ∧ (∀ b ∈ [0, 255], b ≤ 255) ∧ 0xFFFFFFFF < 2 ^ 32 := by decide

end Sys2Proof.Machine.Tests
end

section
/-! SUPPORT. What one command, one host access and one step do to the state, said once; and from it the statements of
10_state.md: the reset values, who writes what, STATUS, and the invariant. -/

namespace Sys2Proof

/-! ### From a decoded command back to its word -/

theorem commandWord_fields {w : Word} (h : rsvField w = 0#16) : commandWord (opcField w) (immField w) = w := by
  apply BitVec.eq_of_getLsbD_eq
  intro k hk
  have hrsv : (rsvField w).getLsbD (k - 16) = false := by simp [h]
  by_cases h8 : k < 8
  · simp [commandWord, opcField, immField, h8, hk]
  · by_cases h16 : k < 16
    · have : k - 8 < 8 := by omega
      simp [commandWord, opcField, immField, h8, hk, this, show 8 + (k - 8) = k by omega]
    · have : ¬ k - 8 < 8 := by omega
      have hw : w.getLsbD k = false := by
        simpa [rsvField, show k - 16 < 16 by omega, show 16 + (k - 16) = k by omega] using hrsv
      simp [commandWord, opcField, immField, h8, this, hw]

/-- An opcode without an immediate: its command's word is the one whose IMM8 is zero. -/
theorem encode_of_withoutImm {opc imm : Byte} {i j : Instr} (hj : encode j = commandWord opc 0#8)
    (h : withoutImm opc imm j = .ok i) : encode i = commandWord opc imm := by
  unfold withoutImm at h
  split at h
  · obtain rfl := Except.ok.inj h
    rw [hj, ‹imm = 0#8›]
  · simp at h

/-- One case for each row of R93's table; the last row, SRST, asks for IMM8 zero; any other opcode is illegal. -/
theorem encode_of_decodeOpcode {opc imm : Byte} {i : Instr} (h : decodeOpcode opc imm = .ok i) :
    encode i = commandWord opc imm := by
  simp only [decodeOpcode, ite_eq_iff] at h
  rcases h with ⟨rfl, h⟩ | ⟨-, ⟨rfl, h⟩ | ⟨-, ⟨rfl, h⟩ | ⟨-, ⟨rfl, h⟩ | ⟨-, ⟨rfl, h⟩ | ⟨-, ⟨rfl, h⟩ | ⟨-, ⟨rfl, h⟩ |
    ⟨-, ⟨rfl, h⟩ | ⟨-, ⟨rfl, h⟩ | ⟨-, ⟨rfl, h⟩ | ⟨-, ⟨rfl, ⟨rfl, h⟩ | ⟨-, h⟩⟩ | ⟨-, h⟩⟩⟩⟩⟩⟩⟩⟩⟩⟩⟩
  · exact encode_of_withoutImm rfl h
  · exact encode_of_withoutImm rfl h
  · exact Except.ok.inj h ▸ rfl
  · exact encode_of_withoutImm rfl h
  · exact encode_of_withoutImm rfl h
  · exact encode_of_withoutImm rfl h
  · exact encode_of_withoutImm rfl h
  · exact Except.ok.inj h ▸ rfl
  · exact encode_of_withoutImm rfl h
  · exact encode_of_withoutImm rfl h
  · exact Except.ok.inj h ▸ rfl
  · cases h
  · cases h

/-- A word that decodes to a command is that command's word. -/
theorem encode_of_decode {w : Word} {i : Instr} (h : decode w = .ok i) : encode i = w := by
  unfold decode at h
  split at h
  · rw [encode_of_decodeOpcode h, commandWord_fields ‹_›]
  · simp at h

end Sys2Proof

namespace Sys2Proof.Machine

/-! ### Offsets, widths and host events -/

/-- The register found at an offset has that offset (R66). -/
theorem offset_of_regAt {cap off : Nat} {r : Reg} (h : regAt cap off = some r) : r.offset = off := by
  unfold regAt at h
  split at h
  · simp at h
  · split at h
    · rename_i hfind
      obtain rfl := Option.some.inj h
      simpa using List.find?_some hfind
    · split_ifs at h <;> obtain rfl := Option.some.inj h <;> simp only [Reg.offset] <;> omega

/-- An admitted access is 4 bytes wide (R65). -/
theorem width_of_admitted {off n : Nat} (h : refuseAccess off n = none) : n = 4 := by
  by_contra hn
  simp [refuseAccess, hn] at h

theorem resets_wr_iff {off n : Nat} {v : Word} :
    (HostEvent.wr off n v).resets = true ↔ n = 4 ∧ off = cmdOffset ∧ v = srstWord := by
  simp [HostEvent.resets, and_assoc]

theorem busy_iff (s : State) : busy s = true ↔ s.pending ≠ none := by simp [busy, Option.isSome_iff_ne_none]

theorem not_busy_iff (s : State) : busy s = false ↔ s.pending = none := by simp [busy]

/-! ### What one access of a register does -/

/-- A write to STATUS moves no field but OVR. -/
theorem writeStatus_frame (v : Word) (s : State) : writeStatus v s = { s with ovr := (writeStatus v s).ovr } := by
  unfold writeStatus
  split <;> rfl

theorem writeStatus_ovr (v : Word) (s : State) : (writeStatus v s).ovr = (!v.getLsbD 2 && s.ovr) := by
  unfold writeStatus
  cases v.getLsbD 2 <;> rfl

/-- What an idle write of a register does: a command word is accepted, an operand is stored, any other write is lost. -/
theorem writeReg_cases (v : Word) (s : State) (r : Reg) :
    (r = .cmd ∧ writeReg v s r = acceptWord v s) ∨ (r = .opDev ∧ writeReg v s r = { s with opDev := v }) ∨
    (r = .opFn ∧ writeReg v s r = { s with opFn := v }) ∨ (r = .opAddr ∧ writeReg v s r = { s with opAddr := v }) ∨
    (r = .opVal ∧ writeReg v s r = { s with opVal := v }) ∨ writeReg v s r = s := by
  cases r <;> simp [writeReg]

/-- An idle write of a register leaves the two flags as they are. -/
theorem writeReg_flags (v : Word) (s : State) (r : Reg) :
    (writeReg v s r).ovr = s.ovr ∧ (writeReg v s r).resValid = s.resValid := by
  obtain ⟨-, h⟩ | ⟨-, h⟩ | ⟨-, h⟩ | ⟨-, h⟩ | ⟨-, h⟩ | h := writeReg_cases v s r <;> rw [h] <;> exact ⟨rfl, rfl⟩

/-- A write while BUSY, other than SRST and a write to STATUS, sets OVR and does nothing else (R67). -/
theorem memWrite_of_busy {off : Nat} {v : Word} {s : State} (hb : s.pending ≠ none) (hr : regAt s.rxCap off ≠ none)
    (hst : off ≠ statusOffset) (hsrst : ¬ (off = cmdOffset ∧ v = srstWord)) :
    memWrite off v s = .next (setOverrun s) := by
  obtain ⟨r, hr⟩ := Option.ne_none_iff_exists'.mp hr
  simp [memWrite, hsrst, hst, hr, (busy_iff s).mpr hb]

/-- An idle write of a mapped register, other than SRST and a write to STATUS, writes it (R64). -/
theorem memWrite_of_idle {off : Nat} {v : Word} {s : State} {r : Reg} (hb : s.pending = none)
    (hr : regAt s.rxCap off = some r) (hst : off ≠ statusOffset) (hsrst : ¬ (off = cmdOffset ∧ v = srstWord)) :
    memWrite off v s = .next (writeReg v s r) := by
  simp [memWrite, hsrst, hst, hr, (not_busy_iff s).mpr hb]

/-- A read of a register that is exact while BUSY returns it in every state (R68). -/
theorem readValue_of_exact {off : Nat} {s : State} {r : Reg} (hr : regAt s.rxCap off = some r)
    (hex : r.exactWhileBusy = true) : readValue s off = readReg s r := by
  simp [readValue, isDraw, hr, hex]

/-! ### What a host step does to the block -/

/-- What a step of the host can do: touch nothing but the host's own fields, reset the block, or make one of the three
kinds of write. -/
inductive HostEffect (s t : State) : Prop
  | quiet (ht : t = { s with host := t.host, draws := t.draws, reads := t.reads })
  | reset (e : HostEvent) (rest : List HostEvent) (hhost : s.host = e :: rest) (he : e.resets = true)
      (ht : t = blockReset { s with host := rest })
  | status (v : Word) (rest : List HostEvent) (hhost : s.host = .wr statusOffset 4 v :: rest)
      (ht : t = writeStatus v { s with host := rest })
  | overrun (off : Nat) (v : Word) (rest : List HostEvent) (hhost : s.host = .wr off 4 v :: rest)
      (hr : regAt s.rxCap off ≠ none) (hst : off ≠ statusOffset) (hsrst : ¬ (off = cmdOffset ∧ v = srstWord))
      (hb : s.pending ≠ none) (ht : t = setOverrun { s with host := rest })
  | register (r : Reg) (v : Word) (rest : List HostEvent) (hhost : s.host = .wr r.offset 4 v :: rest)
      (hsrst : ¬ (r.offset = cmdOffset ∧ v = srstWord)) (hb : s.pending = none)
      (ht : t = writeReg v { s with host := rest } r)

theorem hostEffect_of_memWrite {off : Nat} {v : Word} {s t : State} {rest : List HostEvent}
    (hhost : s.host = .wr off 4 v :: rest) (h : memWrite off v { s with host := rest } = .next t) : HostEffect s t := by
  obtain ⟨rfl, rfl, ht⟩ | ⟨rfl, ht⟩ | ⟨-, ht⟩ | ⟨r, hr, hsrst, hst, hb, ht⟩ | ⟨r, hr, hsrst, -, hb, ht⟩ := memWrite_cases h
  · exact .reset _ rest hhost (resets_wr_iff.mpr ⟨rfl, rfl, rfl⟩) ht
  · exact .status v rest hhost ht
  · exact .quiet (ht ▸ rfl)
  · exact .overrun off v rest hhost (hr ▸ Option.some_ne_none r) hst hsrst ((busy_iff _).mp hb) ht
  · obtain rfl := offset_of_regAt hr
    exact .register r v rest hhost hsrst ((not_busy_iff _).mp hb) ht

theorem hostEffect_of_hostStep {s t : State} (h : hostStep s = .next t) : HostEffect s t := by
  obtain ⟨-, ht⟩ | ⟨off, n, rest, -, -, ht⟩ | ⟨off, n, v, rest, hhost, hadm, hw⟩ | ⟨rest, -, -, ht⟩ | ⟨rest, -, -, ht⟩ |
    ⟨rest, hhost, ht⟩ := hostStep_cases h
  · exact .quiet (ht ▸ rfl)
  · exact .quiet (ht ▸ rfl)
  · obtain rfl := width_of_admitted hadm
    exact hostEffect_of_memWrite hhost hw
  · exact .quiet (ht ▸ rfl)
  · exact .quiet (ht ▸ rfl)
  · exact .reset .powerOn rest hhost rfl ht

/-- One host access less to come before the engine's step (log 2). -/
def countdown (s : State) : State := { s with latency := s.latency - 1 }

theorem step_of_hostTurn {s : State} (h : engineTurn s = none) : step s = hostStep (countdown s) := by
  unfold step agentStep
  rw [h]
  rfl

/-- What a step can do: the engine's performs the pending word, the host's has one of its effects. -/
theorem step_effect {s t : State} (h : step s = .next t) :
    (∃ w u, engineTurn s = some w ∧ perform w s = .next u ∧ t = clearPending u) ∨
    (engineTurn s = none ∧ HostEffect (countdown s) t) :=
  (step_cases h).imp_right fun ⟨hturn, hh⟩ => ⟨hturn, hostEffect_of_hostStep hh⟩

/-- A host's write that is made is 4 bytes wide and does what `memWrite` says. -/
theorem memWrite_of_hostStep {off n : Nat} {v : Word} {s t : State} {rest : List HostEvent}
    (hhost : s.host = .wr off n v :: rest) (h : hostStep s = .next t) :
    n = 4 ∧ memWrite off v { s with host := rest } = .next t := by
  unfold hostStep at h
  rw [hhost] at h
  dsimp only at h
  split at h
  · simp at h
  · exact ⟨width_of_admitted ‹_›, h⟩

theorem hostStep_powerOn {s : State} {rest : List HostEvent} (hhost : s.host = .powerOn :: rest) :
    hostStep s = .next (blockReset { s with host := rest }) := by
  unfold hostStep
  rw [hhost]

/-- SRST and the power-on reset alike leave the reset block (R270). -/
theorem blockReset_of_hostStep {e : HostEvent} {s t : State} {rest : List HostEvent} (hhost : s.host = e :: rest)
    (he : e.resets = true) (h : hostStep s = .next t) : t = blockReset { s with host := rest } := by
  cases e with
  | rd off n => simp [HostEvent.resets] at he
  | poll => simp [HostEvent.resets] at he
  | wr off n v =>
    obtain ⟨-, rfl, rfl⟩ := resets_wr_iff.mp he
    have hw := (memWrite_of_hostStep hhost h).2
    simpa [memWrite, eq_comm] using hw
  | powerOn => exact Host.Outcome.next.inj (h.symm.trans (hostStep_powerOn hhost))

/-! ### What a command does -/

/-- The two states agree but for the result registers, RES_VALID and ERR. -/
def SameButResults (s t : State) : Prop :=
  t = { s with
    resDev := t.resDev, resFn := t.resFn, resAddr := t.resAddr, resVal := t.resVal, resN := t.resN, resCrc := t.resCrc
    resRxcrc := t.resRxcrc, regCount := t.regCount, regs := t.regs, resValid := t.resValid, err := t.err }

theorem SameButResults.trans {s r t : State} (h1 : SameButResults s r) (h2 : SameButResults r t) :
    SameButResults s t := by
  unfold SameButResults at *
  rw [h1] at h2
  exact h2

/-- What DECODE and PARSE do, however they end: they write the results only, RES_VALID tells success, and the results fit
it (R27, R31). -/
structure ResultsWritten (s t : State) : Prop where
  same : SameButResults s t
  valid_iff : t.resValid = true ↔ t.err = .ok
  regs_wf : t.regs.wf t.regCount.toNat = true
  consistent : t.ResultsConsistent

/-- The results as the checksum step leaves them for a frame whose CRC matches (R180, R183). -/
structure ChecksumPassed (s : State) : Prop where
  resAddr : s.resAddr = 0
  resVal : s.resVal = 0
  resN : s.resN = 0
  regCount : s.regCount = 0
  regs : s.regs = []
  resValid : s.resValid = false
  crc : s.resCrc = s.resRxcrc

theorem ResultsWritten.rejected {s t : State} (same : SameButResults s t) (hv : t.resValid = false) (he : t.err ≠ .ok)
    (hregs : t.regs = []) (hcount : t.regCount = 0) (haddr : t.resAddr = 0) (hval : t.resVal = 0) :
    ResultsWritten s t where
  same := same
  valid_iff := by simp [hv, he]
  regs_wf := by rw [hregs]; rfl
  consistent := ⟨fun h => absurd h (by simp [hv]), fun _ => ⟨hcount, haddr, hval⟩⟩

theorem ResultsWritten.accepted {s t : State} (same : SameButResults s t) (hv : t.resValid = true) (he : t.err = .ok)
    (hwf : t.regs.wf t.regCount.toNat = true) (hcrc : t.resCrc = t.resRxcrc)
    (hcount : t.regCount.toNat = t.resN.toNat / 2) : ResultsWritten s t where
  same := same
  valid_iff := by simp [hv, he]
  regs_wf := hwf
  consistent := ⟨fun _ => ⟨hcrc, hcount⟩, fun h => absurd h (by simp [hv])⟩

theorem ChecksumPassed.regs_wf {s : State} (h : ChecksumPassed s) (bound : Nat) : s.regs.wf bound = true := by
  rw [h.regs]
  rfl

theorem ChecksumPassed.count {s : State} (h : ChecksumPassed s) : s.regCount.toNat = s.resN.toNat / 2 := by
  simp [h.regCount, h.resN]

theorem addressAndValue_written {s : State} (h : ChecksumPassed s) : ResultsWritten s (addressAndValue s) := by
  obtain ⟨-, ht⟩ | ⟨-, ht⟩ := addressAndValue_cases s <;> rw [ht]
  · exact .rejected rfl h.resValid nofun h.regs h.regCount h.resAddr h.resVal
  · exact .accepted rfl rfl rfl (h.regs_wf _) h.crc h.count

theorem otherResponse_written {s : State} (h : ChecksumPassed s) : ResultsWritten s (otherResponse s) :=
  .accepted rfl rfl rfl (h.regs_wf _) h.crc h.count

theorem length_payloadRegisters (rx : Memory 8) (k : Nat) : (payloadRegisters rx k).length = k := by
  simp [payloadRegisters]

/-- REG_COUNT holds the number of registers of any byte count (R27, R186). -/
theorem toNat_registerCount (n : Byte) : (BitVec.ofNat 7 (n.toNat / 2)).toNat = n.toNat / 2 := by
  have := n.isLt
  rw [BitVec.toNat_ofNat, Nat.mod_eq_of_lt (by omega)]

theorem readResponse_written {s : State} (h : ChecksumPassed s) : ResultsWritten s (readResponse s) := by
  obtain ⟨-, ht⟩ | ⟨-, ht⟩ := readResponse_cases s <;> rw [ht]
  · exact .rejected rfl h.resValid nofun h.regs h.regCount h.resAddr h.resVal
  · refine .accepted rfl rfl rfl (wf_writeRange _ 0 _ (le_of_eq ?_) (h.regs_wf _)) h.crc (toNat_registerCount _)
    exact (Nat.zero_add _).trans ((length_payloadRegisters _ _).trans (toNat_registerCount _).symm)

theorem decodeResponse_written {s : State} (h : ChecksumPassed s) : ResultsWritten s (decodeResponse s) := by
  obtain ⟨-, ht⟩ | ⟨-, ht⟩ | ⟨-, -, -, ht⟩ := decodeResponse_cases s
  · exact ht ▸ readResponse_written h
  · exact ht ▸ addressAndValue_written h
  · exact ht ▸ otherResponse_written h

theorem checksumPassed_recordChecksum {s : State} (h : computedCrc s = carriedCrc s) :
    ChecksumPassed (recordChecksum (clearResults s)) :=
  ⟨rfl, rfl, rfl, rfl, rfl, rfl, h⟩

theorem examine_written {body : State → State} (hbody : ∀ r, ChecksumPassed r → ResultsWritten r (body r)) (s : State) :
    ResultsWritten s (examine body s) := by
  obtain ⟨-, ht⟩ | ⟨-, -, ht⟩ | ⟨-, hcrc, ht⟩ := examine_cases body s <;> rw [ht]
  · exact .rejected rfl rfl nofun rfl rfl rfl rfl
  · exact .rejected rfl rfl nofun rfl rfl rfl rfl
  · have hb := hbody _ (checksumPassed_recordChecksum hcrc)
    have hsame : SameButResults s (recordChecksum (clearResults s)) := rfl
    exact ⟨hsame.trans hb.same, hb.valid_iff, hb.regs_wf, hb.consistent⟩

/-- What a command can do: ENCODE and RX_PUSH in their two ways each, DECODE and PARSE as the writers of the results. -/
inductive CommandEffect (i : Instr) (s t : State) : Prop
  | nop (hi : i = .nop) (ht : t = finish .ok s)
  | crc (acc : Half) (hi : i = .crcInit ∨ i = .crcRx ∨ ∃ b, i = .crcByte b) (ht : t = finish .ok { s with crcAcc := acc })
  | encodeRejected (hi : i = .encode) (ht : t = finish .encodingError { s with txLen := 0 })
  | encodeAccepted (hi : i = .encode)
      (ht : t = finish .ok { s with tx := s.tx.writeRange 0 (operandFrame s), txLen := 8 })
  | loopback (hi : i = .loopback)
      (ht : t = finish .ok { s with rx := s.rx.writeRange 0 (txBytes s), rxLen := s.txLen.setWidth 10 })
  | rxClear (hi : i = .rxClear) (ht : t = finish .ok { s with rxLen := 0 })
  | pushFull (b : Byte) (hi : i = .rxPush b) (ht : t = finish .bufferFull s)
  | pushRoom (b : Byte) (hi : i = .rxPush b) (hroom : s.rxLen.toNat ≠ s.rxCap)
      (ht : t = finish .ok { s with rx := s.rx.writeCell s.rxLen.toNat b, rxLen := s.rxLen + 1 })
  | results (hi : i = .decode ∨ i = .parse) (hw : ResultsWritten s t)
  | srst (hi : i = .srst) (ht : t = blockReset s)

theorem commandEffect_of_exec {i : Instr} {s t : State} (h : exec i s = .next t) : CommandEffect i s t := by
  have answer {u : State} (hu : exec i s = .next u) : t = u := Host.Outcome.next.inj (h.symm.trans hu)
  cases i with
  | nop => exact .nop rfl (answer rfl)
  | crcInit => exact .crc _ (.inl rfl) (answer rfl)
  | crcByte b => exact .crc _ (.inr (.inr ⟨b, rfl⟩)) (answer rfl)
  | crcRx => exact .crc _ (.inr (.inl rfl)) (answer rfl)
  | encode =>
    cases hop : operandOutOfRange s with
    | true => exact .encodeRejected rfl (answer (exec_encode_rejected s hop))
    | false => exact .encodeAccepted rfl (answer (exec_encode_accepted s hop))
  | loopback => exact .loopback rfl (answer rfl)
  | rxClear => exact .rxClear rfl (answer rfl)
  | rxPush b =>
    by_cases hfull : s.rxLen.toNat = s.rxCap
    · exact .pushFull b rfl (answer (exec_rxPush_full b s hfull))
    · exact .pushRoom b rfl hfull (answer (exec_rxPush_room b s hfull))
  | decode => exact .results (.inl rfl) (answer rfl ▸ examine_written (fun _ => decodeResponse_written) s)
  | parse => exact .results (.inr rfl) (answer rfl ▸ examine_written (fun _ => addressAndValue_written) s)
  | srst => exact .srst rfl (answer rfl)

/-- The two states agree in all that no command but SRST writes: the operands, OVR, the port and the host. -/
def SameButCommandState (s t : State) : Prop :=
  t = { s with
    crcAcc := t.crcAcc, tx := t.tx, txLen := t.txLen, rx := t.rx, rxLen := t.rxLen, resDev := t.resDev, resFn := t.resFn
    resAddr := t.resAddr, resVal := t.resVal, resN := t.resN, resCrc := t.resCrc, resRxcrc := t.resRxcrc
    regCount := t.regCount, regs := t.regs, resValid := t.resValid, err := t.err }

/-- The operand registers are the same (R22). -/
def SameOperands (s t : State) : Prop :=
  t.opDev = s.opDev ∧ t.opFn = s.opFn ∧ t.opAddr = s.opAddr ∧ t.opVal = s.opVal

theorem SameButCommandState.operands {s t : State} (h : SameButCommandState s t) : SameOperands s t := by
  rw [show t = _ from h]
  exact ⟨rfl, rfl, rfl, rfl⟩

theorem SameButCommandState.ovr {s t : State} (h : SameButCommandState s t) : t.ovr = s.ovr :=
  (congrArg State.ovr h :)

theorem SameButResults.sameButCommandState {s t : State} (h : SameButResults s t) : SameButCommandState s t := by
  unfold SameButCommandState
  rw [show t = _ from h]

theorem exec_frame {i : Instr} {s t : State} (h : exec i s = .next t) (hi : i ≠ .srst) : SameButCommandState s t := by
  cases commandEffect_of_exec h with
  | nop _ ht => exact ht ▸ rfl
  | crc _ _ ht => exact ht ▸ rfl
  | encodeRejected _ ht => exact ht ▸ rfl
  | encodeAccepted _ ht => exact ht ▸ rfl
  | loopback _ ht => exact ht ▸ rfl
  | rxClear _ ht => exact ht ▸ rfl
  | pushFull _ _ ht => exact ht ▸ rfl
  | pushRoom _ _ _ ht => exact ht ▸ rfl
  | results _ hw => exact hw.same.sameButCommandState
  | srst hsrst _ => exact absurd hsrst hi

theorem perform_frame {w : Word} {s t : State} (h : perform w s = .next t) : SameButCommandState s t := by
  obtain ⟨i, -, hi, hex⟩ | ⟨-, ht⟩ := perform_cases h
  · exact exec_frame hex hi
  · exact ht ▸ rfl

/-! ### STATUS -/

theorem getLsbD_flagBit (b : Bool) (k : Nat) : (flagBit b).getLsbD k = (decide (k = 0) && b) := by
  cases k <;> simp [flagBit, BitVec.getLsbD_setWidth]

/-- A flag put at bit n is that bit alone. -/
theorem getLsbD_flagBit_shiftLeft (b : Bool) (n : Nat) {k : Nat} (hk : k < 32) :
    (flagBit b <<< n).getLsbD k = (decide (k = n) && b) := by
  rw [BitVec.getLsbD_shiftLeft, getLsbD_flagBit]
  obtain h | rfl | h := Nat.lt_trichotomy k n
  · simp [h, Nat.ne_of_lt h]
  · simp [hk]
  · simp [Nat.ne_of_gt h, Nat.sub_ne_zero_of_lt h]

/-- STATUS bit by bit (R29, R30): each field is the only one that reaches its own bits. -/
theorem getLsbD_statusWord (s : State) {k : Nat} (hk : k < 32) :
    (statusWord s).getLsbD k =
      ((decide (4 ≤ k) && s.err.number.getLsbD (k - 4)) || (decide (k = 2) && s.ovr) ||
        (decide (k = 1) && s.resValid) || (decide (k = 0) && busy s)) := by
  have herr : (s.err.number.setWidth 32 <<< 4).getLsbD k = (decide (4 ≤ k) && s.err.number.getLsbD (k - 4)) := by
    rw [BitVec.getLsbD_shiftLeft, BitVec.getLsbD_setWidth, ← decide_not]
    simp [hk, show k - 4 < 32 by omega]
  unfold statusWord
  rw [BitVec.getLsbD_or, BitVec.getLsbD_or, BitVec.getLsbD_or, herr, getLsbD_flagBit_shiftLeft _ _ hk,
    getLsbD_flagBit_shiftLeft _ _ hk, getLsbD_flagBit]

theorem Code.number_le (c : Code) : c.number.toNat ≤ 7 := by cases c <;> decide

/-- STATUS right after a reset reads 0 (R37). -/
theorem statusWord_of_clear {s : State} (herr : s.err = .ok) (hovr : s.ovr = false) (hv : s.resValid = false)
    (hp : s.pending = none) : statusWord s = 0#32 := by
  have hb := (not_busy_iff s).mpr hp
  unfold statusWord
  rw [herr, hovr, hv, hb]
  decide

/-- Settles O47, field by field from the bits of STATUS. -/
theorem statusFields : Obligations.StatusFields := by
  intro s
  have herr : (statusWord s).extractLsb' 4 4 = s.err.number := by
    apply BitVec.eq_of_getLsbD_eq
    intro k hk
    rw [BitVec.getLsbD_extractLsb', getLsbD_statusWord s (by omega)]
    simp [hk, show ¬ 4 + k = 2 by omega, show ¬ 4 + k = 1 by omega]
  have hhigh : (statusWord s).extractLsb' 8 24 = 0#24 := by
    apply BitVec.eq_of_getLsbD_eq
    intro k hk
    rw [BitVec.getLsbD_extractLsb', getLsbD_statusWord s (by omega), BitVec.getLsbD_of_ge s.err.number _ (by omega)]
    simp [show ¬ 8 + k = 2 by omega, show ¬ 8 + k = 1 by omega]
  refine ⟨?_, ?_, ?_, ?_, herr, hhigh, herr ▸ Code.number_le s.err⟩ <;> rw [getLsbD_statusWord s (by decide)]
  · simpa using busy_iff s
  · simp
  · simp
  · simp

/-! ### The invariant -/

/-- A buffer that begins with a frame holds, byte by byte, the fields the frame was made of (R140). -/
theorem txHoldsFrame_of_frame {s : State} {d f : Byte} {a v : Half} (h : s.tx.readRange 0 8 = frame d f a v) :
    s.TxHoldsFrame := by
  intro _
  have cell (k : Nat) (hk : k < 8) : (frame d f a v)[k]? = some (s.tx.readCell k) := by
    rw [← h]
    simp [Memory.readRange, hk]
  have h0 : d = s.tx.readCell 0 := Option.some.inj (cell 0 (by decide))
  have h1 : f = s.tx.readCell 1 := Option.some.inj (cell 1 (by decide))
  have h2 : hi8 a = s.tx.readCell 2 := Option.some.inj (cell 2 (by decide))
  have h3 : lo8 a = s.tx.readCell 3 := Option.some.inj (cell 3 (by decide))
  have h4 : hi8 v = s.tx.readCell 4 := Option.some.inj (cell 4 (by decide))
  have h5 : lo8 v = s.tx.readCell 5 := Option.some.inj (cell 5 (by decide))
  rw [h, ← h0, ← h1, ← h2, ← h3, ← h4, ← h5, be16_hi8_lo8, be16_hi8_lo8]

theorem inv_resetWith {cap : Nat} (hmin : Config.rxCapMin ≤ cap) (hmax : cap ≤ Config.rxCapMax) :
    (State.resetWith cap).Inv :=
  ⟨⟨rfl, rfl, rfl⟩, ⟨hmin, hmax, Nat.zero_le cap, .inl rfl⟩, nofun, ⟨nofun, fun _ => ⟨rfl, rfl, rfl⟩⟩, nofun, fun _ => rfl⟩

/-- The invariant speaks of no field that a reset keeps but P_RX_CAP. -/
theorem inv_blockReset {s : State} (h : s.Inv) : (blockReset s).Inv := by
  obtain ⟨-, ⟨hmin, hmax, -⟩, -⟩ := h
  exact inv_resetWith hmin hmax

theorem inv_encodeRejected {s : State} (h : s.Inv) (c : Code) : (finish c { s with txLen := 0 }).Inv := by
  obtain ⟨hbuf, ⟨hmin, hmax, hrx, -⟩, -, hres, hport⟩ := h
  exact ⟨hbuf, ⟨hmin, hmax, hrx, .inl rfl⟩, nofun, hres, hport⟩

theorem inv_encodeAccepted {s : State} (h : s.Inv) :
    (finish .ok { s with tx := s.tx.writeRange 0 (operandFrame s), txLen := 8 }).Inv := by
  obtain ⟨⟨htx, hrest⟩, ⟨hmin, hmax, hrx, -⟩, -, hres, hport⟩ := h
  have hframe : (s.tx.writeRange 0 (operandFrame s)).readRange 0 8 = operandFrame s :=
    readRange_writeRange s.tx 0 (operandFrame s)
  exact ⟨⟨wf_writeRange _ 0 (operandFrame s) le_rfl htx, hrest⟩, ⟨hmin, hmax, hrx, .inr rfl⟩,
    txHoldsFrame_of_frame hframe, hres, hport⟩

/-- TX_LEN never exceeds P_RX_CAP, so LOOPBACK always fits (R160). -/
theorem txLen_le_rxCap {s : State} (h : s.LengthsInRange) : s.txLen.toNat ≤ s.rxCap := by
  obtain ⟨hmin, -, -, h0 | h8⟩ := h
  · simp [h0]
  · rw [h8]
    exact hmin

theorem inv_loopback {s : State} (h : s.Inv) :
    (finish .ok { s with rx := s.rx.writeRange 0 (txBytes s), rxLen := s.txLen.setWidth 10 }).Inv := by
  obtain ⟨⟨htx, hrx, hregs⟩, hlen, hframe, hres, hport⟩ := h
  have hfits := txLen_le_rxCap hlen
  obtain ⟨hmin, hmax, -, htxLen⟩ := hlen
  refine ⟨⟨htx, wf_writeRange _ 0 _ ?_ hrx, hregs⟩, ⟨hmin, hmax, ?_, htxLen⟩, hframe, hres, hport⟩
  · simpa [txBytes] using hfits
  · have := s.txLen.isLt
    simpa [Nat.mod_eq_of_lt (show s.txLen.toNat < 1024 by omega)] using hfits

theorem inv_rxClear {s : State} (h : s.Inv) : (finish .ok { s with rxLen := 0 }).Inv := by
  obtain ⟨hbuf, ⟨hmin, hmax, -, htx⟩, hrest⟩ := h
  exact ⟨hbuf, ⟨hmin, hmax, Nat.zero_le _, htx⟩, hrest⟩

theorem inv_pushRoom {s : State} (h : s.Inv) (b : Byte) (hroom : s.rxLen.toNat ≠ s.rxCap) :
    (finish .ok { s with rx := s.rx.writeCell s.rxLen.toNat b, rxLen := s.rxLen + 1 }).Inv := by
  obtain ⟨⟨htx, hrx, hregs⟩, ⟨hmin, hmax, hlen, htxLen⟩, hrest⟩ := h
  have hlt : s.rxLen.toNat < s.rxCap := by omega
  refine ⟨⟨htx, wf_writeCell _ _ b hlt hrx, hregs⟩, ⟨hmin, hmax, ?_, htxLen⟩, hrest⟩
  have hcap : s.rxCap ≤ 768 := hmax
  simpa [Nat.mod_eq_of_lt (show s.rxLen.toNat + 1 < 1024 by omega)] using hlt

theorem inv_resultsWritten {s t : State} (h : s.Inv) (hw : ResultsWritten s t) : t.Inv := by
  obtain ⟨⟨htx, hrx, -⟩, hlen, hframe, -, hport⟩ := h
  have hregs := hw.regs_wf
  have hres := hw.consistent
  rw [show t = _ from hw.same] at hregs hres ⊢
  exact ⟨⟨htx, hrx, hregs⟩, hlen, hframe, hres, hport⟩

theorem inv_exec {i : Instr} {s t : State} (h : s.Inv) (hex : exec i s = .next t) : t.Inv := by
  cases commandEffect_of_exec hex with
  | nop _ ht => exact ht ▸ h
  | crc _ _ ht => exact ht ▸ h
  | encodeRejected _ ht => exact ht ▸ inv_encodeRejected h _
  | encodeAccepted _ ht => exact ht ▸ inv_encodeAccepted h
  | loopback _ ht => exact ht ▸ inv_loopback h
  | rxClear _ ht => exact ht ▸ inv_rxClear h
  | pushFull _ _ ht => exact ht ▸ h
  | pushRoom b _ hroom ht => exact ht ▸ inv_pushRoom h b hroom
  | results _ hw => exact inv_resultsWritten h hw
  | srst _ ht => exact ht ▸ inv_blockReset h

theorem inv_perform {w : Word} {s t : State} (h : s.Inv) (hp : perform w s = .next t) : t.Inv := by
  obtain ⟨i, -, -, hex⟩ | ⟨-, ht⟩ := perform_cases hp
  · exact inv_exec h hex
  · exact ht ▸ h

theorem inv_clearPending {s : State} (h : s.Inv) : (clearPending s).Inv := by
  obtain ⟨hbuf, hlen, hframe, hres, -⟩ := h
  exact ⟨hbuf, hlen, hframe, hres, nofun, fun _ => rfl⟩

theorem inv_countdown {s : State} (h : s.Inv) : (countdown s).Inv := by
  obtain ⟨hbuf, hlen, hframe, hres, hsrst, hlat⟩ := h
  exact ⟨hbuf, hlen, hframe, hres, hsrst, fun hp => congrArg (· - 1) (hlat hp)⟩

theorem inv_acceptWord {v : Word} {s : State} (h : s.Inv) (hv : v ≠ srstWord) : (acceptWord v s).Inv := by
  obtain ⟨hbuf, hlen, hframe, hres, -⟩ := h
  exact ⟨hbuf, hlen, hframe, hres, fun hp => hv (Option.some.inj hp), nofun⟩

theorem inv_writeReg {v : Word} {s : State} {r : Reg} (h : s.Inv) (hsrst : ¬ (r.offset = cmdOffset ∧ v = srstWord)) :
    (writeReg v s r).Inv := by
  obtain ⟨rfl, hw⟩ | ⟨-, hw⟩ | ⟨-, hw⟩ | ⟨-, hw⟩ | ⟨-, hw⟩ | hw := writeReg_cases v s r <;> rw [hw]
  · exact inv_acceptWord h fun hv => hsrst ⟨rfl, hv⟩
  all_goals exact h

theorem inv_hostEffect {s t : State} (h : s.Inv) (he : HostEffect s t) : t.Inv := by
  cases he with
  | quiet ht => exact ht ▸ h
  | reset e rest _ _ ht => exact ht ▸ inv_blockReset (s := { s with host := rest }) h
  | status v rest _ ht => rw [ht, writeStatus_frame]; exact h
  | overrun off v rest _ _ _ _ _ ht => exact ht ▸ h
  | register r v rest _ hsrst _ ht => exact ht ▸ inv_writeReg (s := { s with host := rest }) h hsrst

/-! ### The invariant at reset and along every step -/

/-- Settles O17: the engine's step by the effect of its command, the host's by what a host step can do. -/
theorem stepKeepsInvariant : Obligations.StepKeepsInvariant := by
  intro s t h hstep
  obtain ⟨w, u, -, hp, rfl⟩ | ⟨-, he⟩ := step_effect hstep
  · exact inv_clearPending (inv_perform h hp)
  · exact inv_hostEffect (inv_countdown h) he

/-- Settles O16, at the default capacity and at every legal one. -/
theorem resetMeetsInvariant : Obligations.ResetMeetsInvariant :=
  ⟨inv_resetWith (by decide) (by decide), fun _ hmin hmax => inv_resetWith hmin hmax⟩

/-! ### Who writes what -/

/-- Settles O14: the operands by the frame of every command, the other columns by the command's effect. -/
theorem commandsWriteOnlyTheirState : Obligations.CommandsWriteOnlyTheirState := by
  intro i s t h hi
  refine ⟨(exec_frame h hi).operands, ?_⟩
  cases commandEffect_of_exec h with
  | nop _ ht => simp [ht]
  | crc acc hcrc ht =>
    refine ⟨fun h1 h2 h3 => ?_, by simp [ht]⟩
    obtain hcrc | hcrc | ⟨b, hcrc⟩ := hcrc
    · exact absurd hcrc h1
    · exact absurd hcrc h2
    · exact absurd hcrc (h3 b)
  | encodeRejected hi ht => simp [hi, ht]
  | encodeAccepted hi ht => simp [hi, ht]
  | loopback hi ht => simp [hi, ht]
  | rxClear hi ht => simp [hi, ht]
  | pushFull b hi ht => simp [hi, ht]
  | pushRoom b hi _ ht => simp [hi, ht]
  | results hres hw =>
    rw [show t = _ from hw.same]
    exact ⟨fun _ _ _ => rfl, fun _ => ⟨rfl, rfl⟩, fun _ _ => rfl, fun _ _ _ => rfl, fun hd hp => (hres.elim hd hp).elim⟩
  | srst hsrst _ => exact absurd hsrst hi

/-- A command other than DECODE, PARSE and SRST leaves RES_VALID as it is (R31). -/
theorem exec_resValid {i : Instr} {s t : State} (h : exec i s = .next t) (hs : i ≠ .srst) (hd : i ≠ .decode)
    (hp : i ≠ .parse) : t.resValid = s.resValid := by
  obtain ⟨-, -, -, -, -, hres⟩ := commandsWriteOnlyTheirState i s t h hs
  obtain ⟨-, -, -, -, -, -, -, -, -, hv⟩ := hres hd hp
  exact hv

/-- Only the words of DECODE and PARSE write RES_VALID. -/
theorem perform_resValid {w : Word} {s t : State} (h : perform w s = .next t) (hne : t.resValid ≠ s.resValid) :
    w = encode .decode ∨ w = encode .parse := by
  obtain ⟨i, hdec, hs, hex⟩ | ⟨-, ht⟩ := perform_cases h
  · by_cases hd : i = .decode
    · exact .inl (hd ▸ (encode_of_decode hdec).symm)
    · by_cases hp : i = .parse
      · exact .inr (hp ▸ (encode_of_decode hdec).symm)
      · exact absurd (exec_resValid hex hs hd hp) hne
  · exact absurd (ht ▸ rfl) hne

/-- Of the host's moves only a reset writes RES_VALID. -/
theorem hostEffect_resValid {s t : State} (h : HostEffect s t) (hne : t.resValid ≠ s.resValid) :
    ∃ e rest, s.host = e :: rest ∧ e.resets = true := by
  cases h with
  | quiet ht => exact absurd (congrArg State.resValid ht) hne
  | reset e rest hhost he _ => exact ⟨e, rest, hhost, he⟩
  | status v rest _ ht => exact absurd (congrArg State.resValid (ht.trans (writeStatus_frame _ _))) hne
  | overrun off v rest _ _ _ _ _ ht => exact absurd (congrArg State.resValid ht) hne
  | register r v rest _ _ _ ht => exact absurd (ht ▸ (writeReg_flags v _ r).2) hne

/-- Settles O50: the engine's step by the word it performs, the host's by what a host step can do. -/
theorem resValidWriters : Obligations.ResValidWriters := by
  refine ⟨fun s t h hne => ?_, fun s t i hi hex => ?_⟩
  · obtain ⟨w, u, hturn, hp, rfl⟩ | ⟨hturn, he⟩ := step_effect h
    · obtain rfl | rfl := perform_resValid hp hne
      · exact .inl hturn
      · exact .inr (.inl hturn)
    · exact .inr (.inr ⟨hturn, hostEffect_resValid (s := countdown s) he hne⟩)
  · obtain rfl | rfl := hi
    · exact Host.Outcome.next.inj hex ▸ (examine_written (fun _ => decodeResponse_written) s).valid_iff
    · exact Host.Outcome.next.inj hex ▸ (examine_written (fun _ => addressAndValue_written) s).valid_iff

/-- A write while BUSY, other than SRST and a write to STATUS, sets OVR; the rest of the step is the host's own. -/
theorem step_of_overrun {off : Nat} {v : Word} {s t : State} {rest : List HostEvent} (h : step s = .next t)
    (hturn : engineTurn s = none) (hb : s.pending ≠ none) (hhost : s.host = .wr off 4 v :: rest)
    (hr : regAt s.rxCap off ≠ none) (hst : off ≠ statusOffset) (hsrst : ¬ (off = cmdOffset ∧ v = srstWord)) :
    t = { s with ovr := true, host := rest, latency := s.latency - 1 } := by
  rw [step_of_hostTurn hturn] at h
  obtain ⟨-, hw⟩ := memWrite_of_hostStep (s := countdown s) hhost h
  exact Host.Outcome.next.inj (hw.symm.trans (memWrite_of_busy hb hr hst hsrst))

/-- What sets OVR (R32, R67). -/
theorem hostEffect_sets_ovr {s t : State} (h : HostEffect s t) (h0 : s.ovr = false) (h1 : t.ovr = true) :
    s.pending ≠ none ∧ ∃ off v rest, s.host = .wr off 4 v :: rest ∧ regAt s.rxCap off ≠ none ∧ off ≠ statusOffset ∧
      ¬ (off = cmdOffset ∧ v = srstWord) := by
  have hne : t.ovr ≠ s.ovr := by simp [h0, h1]
  cases h with
  | quiet ht => exact absurd (congrArg State.ovr ht) hne
  | reset _ _ _ _ ht => simp [ht] at h1
  | status v rest _ ht => simp [ht, writeStatus_ovr, h0] at h1
  | overrun off v rest hhost hr hst hsrst hb _ => exact ⟨hb, off, v, rest, hhost, hr, hst, hsrst⟩
  | register r v rest _ _ _ ht => exact absurd (ht ▸ (writeReg_flags v _ r).1) hne

/-- What clears OVR (R32). -/
theorem hostEffect_clears_ovr {s t : State} (h : HostEffect s t) (h1 : s.ovr = true) (h0 : t.ovr = false) :
    ∃ e rest, s.host = e :: rest ∧
      (e.resets = true ∨ ∃ v : Word, e = .wr statusOffset 4 v ∧ v.getLsbD 2 = true) := by
  have hne : t.ovr ≠ s.ovr := by simp [h0, h1]
  cases h with
  | quiet ht => exact absurd (congrArg State.ovr ht) hne
  | reset e rest hhost he _ => exact ⟨e, rest, hhost, .inl he⟩
  | status v rest hhost ht => exact ⟨_, rest, hhost, .inr ⟨v, rfl, by simpa [ht, writeStatus_ovr, h1] using h0⟩⟩
  | overrun off v rest _ _ _ _ _ ht => simp [ht] at h0
  | register r v rest _ _ _ ht => exact absurd (ht ▸ (writeReg_flags v _ r).1) hne

theorem hostStep_ovr_of_clearing {e : HostEvent} {s t : State} {rest : List HostEvent} (h : hostStep s = .next t)
    (hhost : s.host = e :: rest) (he : e.resets = true ∨ ∃ v : Word, e = .wr statusOffset 4 v ∧ v.getLsbD 2 = true) :
    t.ovr = false := by
  obtain he | ⟨v, rfl, hv⟩ := he
  · rw [blockReset_of_hostStep hhost he h, blockReset_ovr]
  · have hw := (memWrite_of_hostStep hhost h).2
    have ht : t = writeStatus v { s with host := rest } := by simpa [memWrite, cmdOffset, statusOffset, eq_comm] using hw
    rw [ht, writeStatus_ovr, hv]
    rfl

/-- Settles O51: no command writes OVR, so what sets and clears it is read off what a host step can do. -/
theorem overrunSetAndCleared : Obligations.OverrunSetAndCleared := by
  intro s t h
  refine ⟨fun h0 => ⟨fun h1 => ?_, ?_⟩, fun _ _ _ => step_of_overrun h, fun h1 => ⟨fun h0 => ?_, ?_⟩⟩
  · obtain ⟨w, u, -, hp, rfl⟩ | ⟨hturn, he⟩ := step_effect h
    · exact absurd ((perform_frame hp).ovr.symm.trans h1) (by simp [h0])
    · exact ⟨hturn, hostEffect_sets_ovr (s := countdown s) he h0 h1⟩
  · rintro ⟨hturn, hb, off, v, rest, hhost, hr, hst, hsrst⟩
    rw [step_of_overrun h hturn hb hhost hr hst hsrst]
  · obtain ⟨w, u, -, hp, rfl⟩ | ⟨hturn, he⟩ := step_effect h
    · exact absurd ((perform_frame hp).ovr.symm.trans h0) (by simp [h1])
    · exact ⟨hturn, hostEffect_clears_ovr (s := countdown s) he h1 h0⟩
  · rintro ⟨hturn, e, rest, hhost, he⟩
    rw [step_of_hostTurn hturn] at h
    exact hostStep_ovr_of_clearing (s := countdown s) h hhost he

/-- An operand keeps its value, or takes the one that the host is writing at its offset in an idle block (R22). -/
def KeptOrWritten (s t : State) (off : Nat) (operand : State → Word) : Prop :=
  operand t = operand s ∨ ∃ rest, s.host = .wr off 4 (operand t) :: rest ∧ s.pending = none

def OperandsKeptOrWritten (s t : State) : Prop :=
  KeptOrWritten s t 0x010 State.opDev ∧ KeptOrWritten s t 0x014 State.opFn ∧ KeptOrWritten s t 0x018 State.opAddr ∧
    KeptOrWritten s t 0x01C State.opVal

theorem SameOperands.keptOrWritten {s t : State} (h : SameOperands s t) : OperandsKeptOrWritten s t := by
  obtain ⟨hdev, hfn, haddr, hval⟩ := h
  exact ⟨.inl hdev, .inl hfn, .inl haddr, .inl hval⟩

theorem writeReg_keptOrWritten {s : State} {r : Reg} {v : Word} {rest : List HostEvent}
    (hhost : s.host = .wr r.offset 4 v :: rest) (hb : s.pending = none) :
    OperandsKeptOrWritten s (writeReg v { s with host := rest } r) := by
  obtain ⟨-, hw⟩ | ⟨rfl, hw⟩ | ⟨rfl, hw⟩ | ⟨rfl, hw⟩ | ⟨rfl, hw⟩ | hw := writeReg_cases v { s with host := rest } r <;>
    rw [hw]
  · exact SameOperands.keptOrWritten ⟨rfl, rfl, rfl, rfl⟩
  · exact ⟨.inr ⟨rest, hhost, hb⟩, .inl rfl, .inl rfl, .inl rfl⟩
  · exact ⟨.inl rfl, .inr ⟨rest, hhost, hb⟩, .inl rfl, .inl rfl⟩
  · exact ⟨.inl rfl, .inl rfl, .inr ⟨rest, hhost, hb⟩, .inl rfl⟩
  · exact ⟨.inl rfl, .inl rfl, .inl rfl, .inr ⟨rest, hhost, hb⟩⟩
  · exact SameOperands.keptOrWritten ⟨rfl, rfl, rfl, rfl⟩

/-- Of the host's moves only a reset and an idle write of an operand change one. -/
theorem hostEffect_operands {s t : State} (h : HostEffect s t) :
    (∃ e rest, s.host = e :: rest ∧ e.resets = true) ∨ OperandsKeptOrWritten s t := by
  cases h with
  | quiet ht =>
    rw [ht]
    exact .inr (SameOperands.keptOrWritten ⟨rfl, rfl, rfl, rfl⟩)
  | reset e rest hhost he _ => exact .inl ⟨e, rest, hhost, he⟩
  | status v rest _ ht =>
    rw [ht, writeStatus_frame]
    exact .inr (SameOperands.keptOrWritten ⟨rfl, rfl, rfl, rfl⟩)
  | overrun off v rest _ _ _ _ _ ht =>
    rw [ht]
    exact .inr (SameOperands.keptOrWritten ⟨rfl, rfl, rfl, rfl⟩)
  | register r v rest hhost _ hb ht => exact .inr (ht ▸ writeReg_keptOrWritten hhost hb)

/-- Settles O52: no command writes an operand, and of the host's moves only its write and a reset do. -/
theorem operandRegisterWriters : Obligations.OperandRegisterWriters := by
  refine ⟨fun s v hb => ⟨?_, ?_, ?_, ?_⟩, fun s => ⟨?_, ?_, ?_, ?_⟩, fun s t h => ?_⟩
  · exact memWrite_of_idle (r := .opDev) hb rfl (by decide) (by simp [cmdOffset])
  · exact memWrite_of_idle (r := .opFn) hb rfl (by decide) (by simp [cmdOffset])
  · exact memWrite_of_idle (r := .opAddr) hb rfl (by decide) (by simp [cmdOffset])
  · exact memWrite_of_idle (r := .opVal) hb rfl (by decide) (by simp [cmdOffset])
  · exact readValue_of_exact (r := .opDev) rfl rfl
  · exact readValue_of_exact (r := .opFn) rfl rfl
  · exact readValue_of_exact (r := .opAddr) rfl rfl
  · exact readValue_of_exact (r := .opVal) rfl rfl
  · obtain ⟨w, u, -, hp, rfl⟩ | ⟨hturn, he⟩ := step_effect h
    · exact .inr (SameOperands.keptOrWritten (perform_frame hp).operands)
    · exact (hostEffect_operands (s := countdown s) he).imp_left fun hreset => ⟨hturn, hreset⟩

/-- Settles O1: SRST and the power-on reset are the one `blockReset`. -/
theorem resetTableAtPowerOnAndSrst : Obligations.ResetTableAtPowerOnAndSrst := by
  refine ⟨fun cap => ?_, rfl, fun s => exec_srst s, fun s rest hhost => ?_⟩
  · exact ⟨rfl, rfl, rfl, rfl, rfl, readCell_nil, rfl, readCell_nil, rfl, rfl, rfl, rfl, rfl, rfl, rfl, rfl, rfl,
      readCell_nil, statusWord_of_clear rfl rfl rfl rfl, rfl, rfl⟩
  · rw [hostStep_powerOn hhost, exec_srst]

end Sys2Proof.Machine
end

section
/-! SUPPORT. The order of the two agents and the host bus: what each kind of host access does and what a run does with it,
said once; and from it the statements of 20_memory.md. -/

namespace Sys2Proof

/-! ### From a command to its word and back -/

theorem opcField_commandWord (opc imm : Byte) : opcField (commandWord opc imm) = opc := by
  apply BitVec.eq_of_getLsbD_eq
  intro k hk
  simp [opcField, commandWord, hk, show k < 32 by omega]

theorem immField_commandWord (opc imm : Byte) : immField (commandWord opc imm) = imm := by
  apply BitVec.eq_of_getLsbD_eq
  intro k hk
  simp [immField, commandWord, hk, show 8 + k < 32 by omega]

theorem rsvField_commandWord (opc imm : Byte) : rsvField (commandWord opc imm) = 0#16 := by
  apply BitVec.eq_of_getLsbD_eq
  intro k hk
  have hopc : opc.getLsbD (16 + k) = false := BitVec.getLsbD_of_ge _ _ (by omega)
  have himm : imm.getLsbD (16 + k - 8) = false := BitVec.getLsbD_of_ge _ _ (by omega)
  simp [rsvField, commandWord, hopc, himm]

theorem decode_commandWord (opc imm : Byte) : decode (commandWord opc imm) = decodeOpcode opc imm := by
  simp [decode, rsvField_commandWord, opcField_commandWord, immField_commandWord]

/-- The word of a command decodes to that command (R93, R95). -/
theorem decode_encode (i : Instr) : decode (encode i) = .ok i := by
  cases i <;> exact decode_commandWord _ _

theorem encode_ne_srstWord {i : Instr} (hi : i ≠ .srst) : encode i ≠ srstWord := fun h =>
  hi (Except.ok.inj ((decode_encode i).symm.trans ((congrArg decode h).trans (decode_encode .srst))))

end Sys2Proof

namespace Sys2Proof.Machine

/-! ### Every command, word and admitted write has an outcome -/

/-- There is no fault in this machine (R245, R247). -/
theorem outcome_refused_or_next (o : Host.Outcome State Fault Refusal) : (∃ r, o = .refused r) ∨ ∃ t, o = .next t := by
  cases o with
  | next t => exact .inr ⟨t, rfl⟩
  | fault r => exact nomatch r
  | refused r => exact .inl ⟨r, rfl⟩

theorem exec_answers (i : Instr) (s : State) : ∃ t, exec i s = .next t := by
  cases i <;> exact ⟨_, rfl⟩

theorem perform_of_command {w : Word} {i : Instr} (s : State) (h : decode w = .ok i) (hi : i ≠ .srst) :
    perform w s = exec i s := by
  unfold perform
  split
  · exact absurd (Except.ok.inj (h.symm.trans ‹_›)) hi
  · rename_i j _ hj
    rw [Except.ok.inj (h.symm.trans hj)]
  · rename_i e he
    cases h.symm.trans he

theorem perform_of_illegal {w : Word} {e : Illegal} (s : State) (h : decode w = .error e) :
    perform w s = .next (finish .illegalCommand s) := by
  simp [perform, h]

theorem perform_of_srstWord {w : Word} (s : State) (h : decode w = .ok .srst) :
    perform w s = .next (finish .illegalCommand s) := by
  simp [perform, h]

theorem perform_answers (w : Word) (s : State) : ∃ t, perform w s = .next t := by
  cases hdec : decode w with
  | error e => exact ⟨_, perform_of_illegal s hdec⟩
  | ok i =>
    by_cases hi : i = .srst
    · exact ⟨_, perform_of_srstWord s (hi ▸ hdec)⟩
    · exact perform_of_command s hdec hi ▸ exec_answers i s

theorem memWrite_srst (s : State) : memWrite cmdOffset srstWord s = exec .srst s := if_pos ⟨rfl, rfl⟩

theorem memWrite_status (v : Word) (s : State) : memWrite statusOffset v s = .next (writeStatus v s) := by
  simp [memWrite, cmdOffset, statusOffset]

theorem memWrite_answers (off : Nat) (v : Word) (s : State) : ∃ t, memWrite off v s = .next t := by
  unfold memWrite
  split
  · exact exec_answers .srst s
  · split
    · exact ⟨_, rfl⟩
    · split <;> exact ⟨_, rfl⟩

/-- No write reaches the host's queue. -/
theorem memWrite_host {off : Nat} {v : Word} {s t : State} (h : memWrite off v s = .next t) : t.host = s.host := by
  obtain ⟨-, -, ht⟩ | ⟨-, ht⟩ | ⟨-, ht⟩ | ⟨r, -, -, -, -, ht⟩ | ⟨r, -, -, -, -, ht⟩ := memWrite_cases h
  · simp [ht]
  · rw [ht, writeStatus_frame]
  · rw [ht]
  · simp [ht]
  · rw [ht]
    cases r <;> rfl

/-! ### Admitted accesses, and one lemma for each kind of host step -/

theorem refuseAccess_eq_none_iff {off n : Nat} : refuseAccess off n = none ↔ n = 4 ∧ off % 4 = 0 ∧ off ≤ 0xFFC := by
  simp [refuseAccess, ite_eq_iff]

theorem refuseAccess_of_admitted {off : Nat} (hal : off % 4 = 0) (hwin : off ≤ 0xFFC) : refuseAccess off 4 = none :=
  refuseAccess_eq_none_iff.mpr ⟨rfl, hal, hwin⟩

/-- R65: the two kinds of event that can be not admitted, and when they are. -/
theorem admitted_eq_false_iff {e : HostEvent} :
    e.admitted = false ↔ ∃ off n, (e = .rd off n ∨ ∃ v, e = .wr off n v) ∧ (n ≠ 4 ∨ off % 4 ≠ 0 ∨ 0xFFC < off) := by
  have refused_iff (off n : Nat) : (refuseAccess off n).isNone = false ↔ n ≠ 4 ∨ off % 4 ≠ 0 ∨ 0xFFC < off := by
    rw [← Bool.not_eq_true, Option.isNone_iff_eq_none, refuseAccess_eq_none_iff]
    omega
  cases e with
  | rd off n => simp [HostEvent.admitted, refused_iff, and_assoc]
  | wr off n v => simp [HostEvent.admitted, refused_iff, and_assoc]
  | poll => simp [HostEvent.admitted]
  | powerOn => simp [HostEvent.admitted]

theorem hostStep_nil {s : State} (hhost : s.host = []) : hostStep s = .next s := by
  unfold hostStep
  rw [hhost]

theorem hostStep_rd {off n : Nat} {s : State} {rest : List HostEvent} (hhost : s.host = .rd off n :: rest)
    (hadm : refuseAccess off n = none) : hostStep s = .next (memRead off { s with host := rest }) := by
  simp [hostStep, hhost, hadm]

theorem hostStep_wr {off n : Nat} {v : Word} {s : State} {rest : List HostEvent} (hhost : s.host = .wr off n v :: rest)
    (hadm : refuseAccess off n = none) : hostStep s = memWrite off v { s with host := rest } := by
  simp [hostStep, hhost, hadm]

theorem hostStep_poll_idle {s : State} {rest : List HostEvent} (hhost : s.host = .poll :: rest)
    (hp : s.pending = none) : hostStep s = .next { s with host := rest } := by
  simp [hostStep, hhost, (not_busy_iff s).mpr hp]

theorem hostStep_poll_busy {s : State} {rest : List HostEvent} (hhost : s.host = .poll :: rest)
    (hp : s.pending ≠ none) : hostStep s = .next s := by
  simp [hostStep, hhost, (busy_iff s).mpr hp]

theorem hostStep_refused {e : HostEvent} {s : State} {rest : List HostEvent} (hhost : s.host = e :: rest)
    (he : e.admitted = false) : ∃ r, hostStep s = .refused r := by
  cases e with
  | rd off n =>
    obtain ⟨r, hr⟩ := Option.isSome_iff_exists.mp (Option.isNone_eq_false_iff.mp he)
    exact ⟨r, by simp [hostStep, hhost, hr]⟩
  | wr off n v =>
    obtain ⟨r, hr⟩ := Option.isSome_iff_exists.mp (Option.isNone_eq_false_iff.mp he)
    exact ⟨r, by simp [hostStep, hhost, hr]⟩
  | poll => cases he
  | powerOn => cases he

theorem hostStep_answers {e : HostEvent} {s : State} {rest : List HostEvent} (hhost : s.host = e :: rest)
    (he : e.admitted = true) : ∃ t, hostStep s = .next t := by
  cases e with
  | rd off n => exact ⟨_, hostStep_rd hhost (Option.isNone_iff_eq_none.mp he)⟩
  | wr off n v => exact hostStep_wr hhost (Option.isNone_iff_eq_none.mp he) ▸ memWrite_answers off v _
  | poll =>
    by_cases hp : s.pending = none
    · exact ⟨_, hostStep_poll_idle hhost hp⟩
    · exact ⟨_, hostStep_poll_busy hhost hp⟩
  | powerOn => exact ⟨_, hostStep_powerOn hhost⟩

/-- A read that is made is admitted. -/
theorem refuseAccess_of_hostStep {off n : Nat} {s t : State} {rest : List HostEvent} (hhost : s.host = .rd off n :: rest)
    (h : hostStep s = .next t) : refuseAccess off n = none := by
  by_contra hne
  obtain ⟨r, hr⟩ := hostStep_refused hhost (Bool.eq_false_iff.mpr fun hn => hne (Option.isNone_iff_eq_none.mp hn))
  exact nomatch h.symm.trans hr

/-- R65: the host is refused exactly when its next access is not admitted. -/
theorem hostStep_refused_iff {s : State} :
    (∃ r, hostStep s = .refused r) ↔ ∃ e rest, s.host = e :: rest ∧ e.admitted = false := by
  refine ⟨fun ⟨r, hr⟩ => ?_, fun ⟨e, rest, hhost, he⟩ => hostStep_refused hhost he⟩
  cases hhost : s.host with
  | nil => exact nomatch hr.symm.trans (hostStep_nil hhost)
  | cons e rest =>
    refine ⟨e, rest, rfl, Bool.eq_false_iff.mpr fun he => ?_⟩
    obtain ⟨t, ht⟩ := hostStep_answers hhost he
    exact nomatch hr.symm.trans ht

/-- The host goes through its queue: a step adds nothing to it. -/
theorem hostStep_host_subset {s t : State} (h : hostStep s = .next t) : t.host ⊆ s.host := by
  obtain ⟨-, ht⟩ | ⟨off, n, rest, hhost, -, ht⟩ | ⟨off, n, v, rest, hhost, -, hw⟩ | ⟨rest, -, -, ht⟩ |
    ⟨rest, hhost, -, ht⟩ | ⟨rest, hhost, ht⟩ := hostStep_cases h
  · simp [ht]
  · simp [ht, hhost]
  · have ht : t.host = rest := memWrite_host hw
    simp [ht, hhost]
  · simp [ht]
  · simp [ht, hhost]
  · simp [ht, hhost]

/-! ### Whose turn it is -/

theorem engineTurn_of_pending {w : Word} {s : State} (hp : s.pending = some w) (h : s.latency = 0 ∨ s.host = []) :
    engineTurn s = some w := by
  simp [engineTurn, hp, h]

theorem engineTurn_eq_none_iff {s : State} : engineTurn s = none ↔ s.pending = none ∨ (0 < s.latency ∧ s.host ≠ []) := by
  cases hp : s.pending with
  | none => simp [engineTurn, hp]
  | some w => simp [engineTurn, hp, Nat.pos_iff_ne_zero]

theorem countdown_of_latency_zero {s : State} (h : s.latency = 0) : countdown s = s := by
  have hsame : s.latency - 1 = s.latency := by omega
  rw [countdown, hsame]

theorem step_of_engineTurn {w : Word} {s u : State} (h : engineTurn s = some w) (hp : perform w s = .next u) :
    step s = .next (clearPending u) := by
  simp [step, agentStep, engineStep, h, hp]

theorem step_answers_of_engineTurn {w : Word} {s : State} (h : engineTurn s = some w) :
    ∃ t, step s = .next t ∧ t.pending = none := by
  obtain ⟨u, hu⟩ := perform_answers w s
  exact ⟨_, step_of_engineTurn h hu, rfl⟩

/-- A step is refused exactly when it is the host's turn and its next access is not admitted (R65). -/
theorem step_refused_iff {s : State} :
    (∃ r, step s = .refused r) ↔ engineTurn s = none ∧ ∃ e rest, s.host = e :: rest ∧ e.admitted = false := by
  cases hturn : engineTurn s with
  | some w =>
    obtain ⟨t, ht, -⟩ := step_answers_of_engineTurn hturn
    simp [ht]
  | none =>
    rw [step_of_hostTurn hturn, hostStep_refused_iff (s := countdown s)]
    simp [countdown]

theorem step_answers_of_admitted {s : State} (hadm : ∀ e ∈ s.host, e.admitted = true) : ∃ t, step s = .next t := by
  refine (outcome_refused_or_next (step s)).resolve_left fun href => ?_
  obtain ⟨-, e, rest, hhost, he⟩ := step_refused_iff.mp href
  exact absurd (hadm e (hhost ▸ List.mem_cons_self)) (by simp [he])

/-- Settles O12: the events that are not admitted are the reads and writes that R65 names. -/
theorem refusedExactlyWhenNotAdmitted : Obligations.RefusedExactlyWhenNotAdmitted := by
  refine fun s => ⟨step_refused_iff.trans (and_congr_right fun _ => ⟨?_, ?_⟩), outcome_refused_or_next (step s)⟩
  · rintro ⟨e, rest, hhost, he⟩
    obtain ⟨off, n, rfl | ⟨v, rfl⟩, hbad⟩ := admitted_eq_false_iff.mp he
    · exact ⟨off, n, rest, .inl hhost, hbad⟩
    · exact ⟨off, n, rest, .inr ⟨v, hhost⟩, hbad⟩
  · rintro ⟨off, n, rest, hhost | ⟨v, hhost⟩, hbad⟩
    · exact ⟨_, rest, hhost, admitted_eq_false_iff.mpr ⟨off, n, .inl rfl, hbad⟩⟩
    · exact ⟨_, rest, hhost, admitted_eq_false_iff.mpr ⟨off, n, .inr ⟨v, rfl⟩, hbad⟩⟩

/-! ### Runs, and the end of a pending word -/

theorem run_succ_of_step {s t : State} (h : step s = .next t) (n : Nat) : core.run (n + 1) s = core.run n t := by
  have hcore : core.step s = .next t := h
  simp [Host.Core.run, hcore]

theorem run_add {m : Nat} {s t : State} (h : core.run m s = .next t) (n : Nat) : core.run (m + n) s = core.run n t := by
  induction m generalizing s with
  | zero => rw [Nat.zero_add, Host.Outcome.next.inj h]
  | succ m ih =>
    obtain ⟨r, hr⟩ | ⟨u, hu⟩ := outcome_refused_or_next (step s)
    · have hcore : core.step s = .refused r := hr
      simp [Host.Core.run, hcore] at h
    · rw [run_succ_of_step hu] at h
      rw [Nat.add_right_comm, run_succ_of_step hu, ih h]

/-- A move of the host takes a pending word off the port, or leaves it there with its countdown. -/
theorem hostEffect_port {w : Word} {s t : State} (h : HostEffect s t) (hp : s.pending = some w) :
    t.pending = none ∨ (t.pending = some w ∧ t.latency = s.latency) := by
  cases h with
  | quiet ht =>
    rw [ht]
    exact .inr ⟨hp, rfl⟩
  | reset e rest _ _ ht => exact .inl (ht ▸ rfl)
  | status v rest _ ht =>
    rw [ht, writeStatus_frame]
    exact .inr ⟨hp, rfl⟩
  | overrun off v rest _ _ _ _ _ ht =>
    rw [ht]
    exact .inr ⟨hp, rfl⟩
  | register r v rest _ _ hb _ => exact absurd (hp.symm.trans hb) (Option.some_ne_none w)

/-- Settles O18, by induction on the countdown: at 0 the engine moves, and every step of the host before that takes one
from it. -/
theorem pendingCommandLeavesThePort : Obligations.PendingCommandLeavesThePort := by
  intro s w hp hadm
  induction hl : s.latency generalizing s with
  | zero =>
    obtain ⟨t, ht, hnone⟩ := step_answers_of_engineTurn (engineTurn_of_pending hp (.inl hl))
    exact ⟨1, t, le_rfl, run_succ_of_step ht 0, hnone⟩
  | succ l ih =>
    cases hturn : engineTurn s with
    | some v =>
      obtain ⟨t, ht, hnone⟩ := step_answers_of_engineTurn hturn
      exact ⟨1, t, by omega, run_succ_of_step ht 0, hnone⟩
    | none =>
      obtain ⟨t, ht⟩ := step_answers_of_admitted hadm
      have hstep : hostStep (countdown s) = .next t := step_of_hostTurn hturn ▸ ht
      obtain hnone | ⟨hsome, hlat⟩ := hostEffect_port (hostEffect_of_hostStep hstep) hp
      · exact ⟨1, t, by omega, run_succ_of_step ht 0, hnone⟩
      · have hleft : t.latency = l := hlat.trans (by simp [countdown, hl])
        obtain ⟨n, u, hn, hrun, hnone⟩ := ih t hsome (fun e he => hadm e (hostStep_host_subset hstep he)) hleft
        exact ⟨n + 1, u, by omega, (run_succ_of_step ht n).trans hrun, hnone⟩

/-! ### A command and its poll -/

/-- The state with the port, the count of acceptances and the host's queue as given: what no command but SRST reads or
writes. -/
def atPort (p : Option Word) (l a : Nat) (host : List HostEvent) (s : State) : State :=
  { s with pending := p, latency := l, accepted := a, host := host }

section
variable (p : Option Word) (l a : Nat) (host : List HostEvent) (s : State)

theorem addressAndValue_atPort : addressAndValue (atPort p l a host s) = atPort p l a host (addressAndValue s) := by
  unfold addressAndValue
  rw [apply_ite (atPort p l a host)]
  rfl

theorem readResponse_atPort : readResponse (atPort p l a host s) = atPort p l a host (readResponse s) := by
  unfold readResponse
  rw [apply_ite (atPort p l a host)]
  rfl

theorem decodeResponse_atPort : decodeResponse (atPort p l a host s) = atPort p l a host (decodeResponse s) := by
  unfold decodeResponse
  rw [apply_ite (atPort p l a host), apply_ite (atPort p l a host), ← readResponse_atPort, ← addressAndValue_atPort]
  rfl

theorem examine_atPort {body : State → State} (hbody : ∀ r, body (atPort p l a host r) = atPort p l a host (body r)) :
    examine body (atPort p l a host s) = atPort p l a host (examine body s) := by
  unfold examine
  rw [apply_ite (atPort p l a host), apply_ite (atPort p l a host), ← hbody]
  rfl

/-- A command other than SRST does the same whatever stands at the port and in the host's queue. -/
theorem exec_atPort {i : Instr} (hi : i ≠ .srst) :
    exec i (atPort p l a host s) = andThen (exec i s) fun t => .next (atPort p l a host t) := by
  cases i with
  | nop => rfl
  | crcInit => rfl
  | crcByte b => rfl
  | crcRx => rfl
  | encode =>
    cases hop : operandOutOfRange s with
    | true => rw [exec_encode_rejected s hop]; exact exec_encode_rejected _ hop
    | false => rw [exec_encode_accepted s hop]; exact exec_encode_accepted _ hop
  | loopback => rfl
  | rxClear => rfl
  | rxPush b =>
    by_cases hfull : s.rxLen.toNat = s.rxCap
    · rw [exec_rxPush_full b s hfull]; exact exec_rxPush_full b _ hfull
    · rw [exec_rxPush_room b s hfull]; exact exec_rxPush_room b _ hfull
  | decode => rw [exec_decode, examine_atPort p l a host s (decodeResponse_atPort p l a host)]; rfl
  | parse => rw [exec_parse, examine_atPort p l a host s (addressAndValue_atPort p l a host)]; rfl
  | srst => exact absurd rfl hi

end

/-- The poll loop leaves everything as it is but the countdown, and lets it run out. -/
theorem run_polls (w : Word) (l a : Nat) (rest : List HostEvent) (s : State) :
    core.run l (atPort (some w) l a (.poll :: rest) s) = .next (atPort (some w) 0 a (.poll :: rest) s) := by
  induction l with
  | zero => rfl
  | succ l ih =>
    have hturn : engineTurn (atPort (some w) (l + 1) a (.poll :: rest) s) = none :=
      engineTurn_eq_none_iff.mpr (.inr ⟨Nat.succ_pos l, List.cons_ne_nil _ _⟩)
    have hstep := (step_of_hostTurn hturn).trans (hostStep_poll_busy rfl (Option.some_ne_none w))
    exact (run_succ_of_step hstep l).trans ih

/-- The idle block accepts the word of a command (R64). -/
theorem step_accepts {s : State} {i : Instr} {rest : List HostEvent} (hi : i ≠ .srst) (hp : s.pending = none)
    (hhost : s.host = .wr cmdOffset 4 (encode i) :: rest) :
    step s = .next (atPort (some (encode i)) (Config.latency s.accepted) (s.accepted + 1) rest s) :=
  calc step s = hostStep (countdown s) := step_of_hostTurn (engineTurn_eq_none_iff.mpr (.inl hp))
    _ = memWrite cmdOffset (encode i) { countdown s with host := rest } := hostStep_wr hhost rfl
    _ = .next (acceptWord (encode i) { countdown s with host := rest }) :=
      memWrite_of_idle (off := cmdOffset) (r := .cmd) hp rfl (by decide) fun h => encode_ne_srstWord hi h.2

/-- An accepted command and the poll behind it: the polls use up the latency, the engine performs, the poll ends. -/
theorem run_accepted {i : Instr} {s t : State} (hi : i ≠ .srst) (ht : exec i s = .next t) (l a : Nat)
    (rest : List HostEvent) :
    core.run (l + 2) (atPort (some (encode i)) l a (.poll :: rest) s) = .next (atPort none 0 a rest t) := by
  have hperform : perform (encode i) (atPort (some (encode i)) 0 a (.poll :: rest) s) =
      .next (atPort (some (encode i)) 0 a (.poll :: rest) t) := by
    rw [perform_of_command _ (decode_encode i) hi, exec_atPort _ _ _ _ _ hi, ht, andThen_next]
  have hengine : step (atPort (some (encode i)) 0 a (.poll :: rest) s) = .next (atPort none 0 a (.poll :: rest) t) :=
    step_of_engineTurn (engineTurn_of_pending rfl (.inl rfl)) hperform
  have hpoll : step (atPort none 0 a (.poll :: rest) t) = .next (atPort none 0 a rest t) :=
    (step_of_hostTurn (engineTurn_eq_none_iff.mpr (.inl rfl))).trans (hostStep_poll_idle rfl rfl)
  rw [run_add (run_polls _ l a rest s), run_succ_of_step hengine, run_succ_of_step hpoll]
  rfl

/-- Settles O19: the word is accepted, and from there the poll ends with the command performed. -/
theorem commandMnemonicPerformsCommand : Obligations.CommandMnemonicPerformsCommand := by
  intro i s rest hi hp hhost
  obtain ⟨t, ht⟩ := exec_answers i s
  have hqueue : s.host = .wr cmdOffset 4 (encode i) :: .poll :: rest := hhost
  have hpending : t.pending = none := (congrArg State.pending (exec_frame ht hi)).trans hp
  refine ⟨Config.latency s.accepted + 2 + 1, t, ht, ?_⟩
  rw [run_succ_of_step (step_accepts hi hp hqueue), run_accepted hi ht, ← hpending]
  rfl

/-! ### The steps of the two agents -/

/-- Settles O10: the engine performs the word as it decodes, and PENDING becomes none. -/
theorem engineStepRunsPendingCommand : Obligations.EngineStepRunsPendingCommand := by
  intro s w hp hwhen
  have hturn := engineTurn_of_pending hp hwhen
  refine ⟨fun i t hdec hi hex => ?_, fun e hdec => ?_⟩
  · exact step_of_engineTurn hturn ((perform_of_command s hdec hi).trans hex)
  · exact step_of_engineTurn hturn (perform_of_illegal s hdec)

/-- Settles O11: the host's step is `hostStep` with one access less to come, and that has a lemma for each event. -/
theorem hostStepRunsNextAccess : Obligations.HostStepRunsNextAccess := by
  intro s hwhen
  have hstep : step s = hostStep (countdown s) := step_of_hostTurn (engineTurn_eq_none_iff.mpr hwhen)
  refine ⟨fun hhost hlat => ?_, fun rest => ⟨?_, ?_, ?_, ?_, ?_⟩⟩
  · rw [hstep, countdown_of_latency_zero hlat, hostStep_nil hhost]
  · exact fun off hhost hal hwin => hstep.trans (hostStep_rd hhost (refuseAccess_of_admitted hal hwin))
  · exact fun off v hhost hal hwin => hstep.trans (hostStep_wr hhost (refuseAccess_of_admitted hal hwin))
  · exact fun hhost => hstep.trans ((hostStep_wr (s := countdown s) hhost rfl).trans (memWrite_srst _))
  · exact fun hhost hp => hstep.trans (hostStep_poll_idle hhost hp)
  · exact fun hhost hp => hstep.trans (hostStep_poll_busy hhost hp)

/-! ### The register map -/

theorem Reg.exists_tx_iff {cap i : Nat} : (Reg.tx i).exists? cap = true ↔ i < 8 := decide_eq_true_iff

theorem Reg.exists_regs_iff {cap j : Nat} : (Reg.regs j).exists? cap = true ↔ j < 127 := decide_eq_true_iff

theorem Reg.exists_rx_iff {cap i : Nat} : (Reg.rx i).exists? cap = true ↔ i < cap := decide_eq_true_iff

theorem exists_of_mem_namedRegs {cap : Nat} {r : Reg} (h : r ∈ namedRegs) : r.exists? cap = true := by
  cases r with
  | tx i => simp [namedRegs] at h
  | regs j => simp [namedRegs] at h
  | rx i => simp [namedRegs] at h
  | _ => rfl

/-- The register found at an offset is one that the block has (R66). -/
theorem exists_of_regAt {cap off : Nat} {r : Reg} (h : regAt cap off = some r) : r.exists? cap = true := by
  unfold regAt at h
  split at h
  · simp at h
  · split at h
    · rename_i hfind
      obtain rfl := Option.some.inj h
      exact exists_of_mem_namedRegs (List.mem_of_find?_eq_some hfind)
    · split_ifs at h <;> obtain rfl := Option.some.inj h
      · exact Reg.exists_tx_iff.mpr (by omega)
      · exact Reg.exists_regs_iff.mpr (by omega)
      · exact Reg.exists_rx_iff.mpr (by omega)

/-- The named registers stand below the buffers. -/
theorem find_namedRegs_of_lt {off : Nat} (h : 0x048 < off) : namedRegs.find? (fun r => r.offset == off) = none := by
  have hlow : ∀ r ∈ namedRegs, r.offset ≤ 0x048 := by decide
  refine List.find?_eq_none.mpr fun r hr => ?_
  have := hlow r hr
  simpa using (show r.offset ≠ off by omega)

theorem regAt_tx {cap i : Nat} (h : i < 8) : regAt cap (0x080 + 4 * i) = some (.tx i) := by
  rw [regAt, if_neg (by omega), find_namedRegs_of_lt (by omega)]
  dsimp only
  rw [if_pos (by omega), Nat.add_sub_cancel_left, Nat.mul_div_cancel_left i (by decide)]

theorem regAt_regs {cap j : Nat} (h : j < 127) : regAt cap (0x100 + 4 * j) = some (.regs j) := by
  rw [regAt, if_neg (by omega), find_namedRegs_of_lt (by omega)]
  dsimp only
  rw [if_neg (by omega), if_pos (by omega), Nat.add_sub_cancel_left, Nat.mul_div_cancel_left j (by decide)]

theorem regAt_rx {cap i : Nat} (h : i < cap) : regAt cap (0x400 + 4 * i) = some (.rx i) := by
  rw [regAt, if_neg (by omega), find_namedRegs_of_lt (by omega)]
  dsimp only
  rw [if_neg (by omega), if_neg (by omega), if_pos (by omega), Nat.add_sub_cancel_left,
    Nat.mul_div_cancel_left i (by decide)]

/-- The register map both ways (R66): the named rows are computed, the buffers are the three ranges. -/
theorem regAt_eq_some_iff {cap off : Nat} {r : Reg} : regAt cap off = some r ↔ r.exists? cap = true ∧ r.offset = off := by
  refine ⟨fun h => ⟨exists_of_regAt h, offset_of_regAt h⟩, ?_⟩
  rintro ⟨hex, rfl⟩
  cases r with
  | tx i => exact regAt_tx (Reg.exists_tx_iff.mp hex)
  | regs j => exact regAt_regs (Reg.exists_regs_iff.mp hex)
  | rx i => exact regAt_rx (Reg.exists_rx_iff.mp hex)
  | _ => rfl

/-- Settles O53: the offsets are computed, both ways of the map are `regAt_eq_some_iff`. -/
theorem registerMap : Obligations.RegisterMap := by
  refine ⟨by decide, fun i => ⟨rfl, rfl, rfl⟩, fun cap off r => regAt_eq_some_iff, fun cap i => ⟨?_, ?_, ?_⟩⟩
  · exact Reg.exists_tx_iff.trans Nat.lt_succ_iff
  · exact Reg.exists_regs_iff.trans Nat.lt_succ_iff
  · exact Reg.exists_rx_iff.trans Nat.succ_le_iff.symm

/-! ### Host reads -/

theorem isDraw_of_regAt {s : State} {off : Nat} {r : Reg} (h : regAt s.rxCap off = some r) :
    isDraw s off = (busy s && !r.exactWhileBusy) := by
  simp [isDraw, h]

/-- A read of an idle block is exact (R63). -/
theorem readValue_of_idle {s : State} {off : Nat} {r : Reg} (hp : s.pending = none)
    (h : regAt s.rxCap off = some r) : readValue s off = readReg s r := by
  simp [readValue, h, isDraw_of_regAt h, (not_busy_iff s).mpr hp]

theorem readValue_of_draw {s : State} {off : Nat} (h : isDraw s off = true) :
    readValue s off = Config.busyDraw s.draws := by
  cases hr : regAt s.rxCap off with
  | none => simp [isDraw, hr] at h
  | some r => simp [readValue, hr, h]

theorem isDraw_of_unmapped {s : State} {off : Nat} (h : regAt s.rxCap off = none) : isDraw s off = false := by
  simp [isDraw, h]

theorem readValue_of_unmapped {s : State} {off : Nat} (h : regAt s.rxCap off = none) : readValue s off = 0 := by
  simp [readValue, h]

/-- R68's list of the registers that read exactly while BUSY, by offset. -/
theorem exactWhileBusy_iff {r : Reg} :
    r.exactWhileBusy = true ↔ r.offset ∈ [0x000, 0x004, 0x008, 0x010, 0x014, 0x018, 0x01C] := by
  cases r with
  | tx i =>
    simp [Reg.exactWhileBusy, Reg.offset]
    omega
  | regs j =>
    simp [Reg.exactWhileBusy, Reg.offset]
    omega
  | rx i =>
    simp [Reg.exactWhileBusy, Reg.offset]
    omega
  | _ => decide

/-- Settles O54: an idle read is `readReg` of the register at the offset; 0x00C is unmapped. -/
theorem idleReadValues : Obligations.IdleReadValues := by
  intro s hp
  have idle {off : Nat} {r : Reg} (h : regAt s.rxCap off = some r) : readValue s off = readReg s r :=
    readValue_of_idle hp h
  exact ⟨idle (r := .cmd) rfl, idle (r := .status) rfl, idle (r := .id) rfl,
    readValue_of_unmapped rfl, idle (r := .opDev) rfl, idle (r := .opFn) rfl,
    idle (r := .opAddr) rfl, idle (r := .opVal) rfl, idle (r := .crcAcc) rfl, idle (r := .txLen) rfl,
    idle (r := .rxLen) rfl, idle (r := .regCount) rfl, idle (r := .resDev) rfl, idle (r := .resFn) rfl,
    idle (r := .resAddr) rfl, idle (r := .resVal) rfl, idle (r := .resN) rfl, idle (r := .resCrc) rfl,
    idle (r := .resRxcrc) rfl, fun i hi => idle (regAt_tx hi), fun j hj => idle (regAt_regs hj),
    fun i hi => idle (regAt_rx hi)⟩

/-- Settles O55: the exact registers are R68's list, and every other mapped read is a draw. -/
theorem busyReads : Obligations.BusyReads := by
  intro s hp
  refine ⟨?_, fun off r hr => ⟨?_, fun hdraw => ⟨readValue_of_draw hdraw, ?_⟩⟩⟩
  · exact ⟨readValue_of_exact (r := .cmd) rfl rfl, readValue_of_exact (r := .status) rfl rfl,
      readValue_of_exact (r := .id) rfl rfl, readValue_of_exact (r := .opDev) rfl rfl,
      readValue_of_exact (r := .opFn) rfl rfl, readValue_of_exact (r := .opAddr) rfl rfl,
      readValue_of_exact (r := .opVal) rfl rfl⟩
  · rw [isDraw_of_regAt hr, (busy_iff s).mpr hp, Bool.true_and, ← offset_of_regAt hr, ← exactWhileBusy_iff,
      Bool.not_eq_true', Bool.not_eq_true]
  · rw [memRead_draws, if_pos hdraw]

/-- Settles O56: the read that is made is `memRead`, and neither the queue nor the countdown has a part in its value. -/
theorem readsHaveNoSideEffect : Obligations.ReadsHaveNoSideEffect := by
  intro s off n rest t hhost hturn hstep
  rw [step_of_hostTurn hturn] at hstep
  have hqueue : (countdown s).host = .rd off n :: rest := hhost
  obtain rfl := Host.Outcome.next.inj (hstep.symm.trans (hostStep_rd hqueue (refuseAccess_of_hostStep hqueue hstep)))
  exact ⟨rfl, rfl⟩

/-! ### Host writes -/

/-- A write to an unmapped offset is lost, whatever BUSY is (R69). -/
theorem memWrite_of_unmapped {off : Nat} {s : State} (v : Word) (h : regAt s.rxCap off = none) :
    memWrite off v s = .next s := by
  have hcmd : off ≠ cmdOffset := by rintro rfl; exact nomatch h
  have hstatus : off ≠ statusOffset := by rintro rfl; exact nomatch h
  simp [memWrite, hcmd, hstatus, h]

/-- Settles O57: with no register at the offset, a read finds 0 and is no draw, and a write is lost. -/
theorem unmappedOffsets : Obligations.UnmappedOffsets := by
  intro s off _ _ h
  refine ⟨readValue_of_unmapped h, fun v => memWrite_of_unmapped v h, ?_⟩
  simp [isDraw_of_unmapped h]

/-- An idle write of a register that is neither CMD nor an operand is lost (R64). -/
theorem writeReg_of_readOnly {r : Reg} {s : State} (v : Word)
    (h : r.offset ∉ [0x000, 0x010, 0x014, 0x018, 0x01C]) : writeReg v s r = s := by
  obtain ⟨rfl, -⟩ | ⟨rfl, -⟩ | ⟨rfl, -⟩ | ⟨rfl, -⟩ | ⟨rfl, -⟩ | hw := writeReg_cases v s r
  · exact absurd h (by decide)
  · exact absurd h (by decide)
  · exact absurd h (by decide)
  · exact absurd h (by decide)
  · exact absurd h (by decide)
  · exact hw

theorem memWrite_of_readOnly {off : Nat} {s : State} (v : Word) (hp : s.pending = none)
    (h : off ∉ [0x000, 0x004, 0x010, 0x014, 0x018, 0x01C]) : memWrite off v s = .next s := by
  cases hr : regAt s.rxCap off with
  | none => exact memWrite_of_unmapped v hr
  | some r =>
    obtain rfl := offset_of_regAt hr
    simp only [List.mem_cons, not_or] at h
    obtain ⟨hcmd, hstatus, hops⟩ := h
    have hro : r.offset ∉ [0x000, 0x010, 0x014, 0x018, 0x01C] := by
      simp only [List.mem_cons, not_or]
      exact ⟨hcmd, hops⟩
    rw [memWrite_of_idle hp hr hstatus fun hs => hcmd hs.1, writeReg_of_readOnly v hro]

/-- Settles O58, a lemma for each case of R64. -/
theorem hostWriteCases : Obligations.HostWriteCases := by
  intro s v
  refine ⟨fun off rest hhost => ⟨fun hbad => ?_, fun hal hwin => ?_⟩, memWrite_srst s, memWrite_status v s,
    fun off _ _ => memWrite_of_unmapped v, fun off hst hr hsrst hp => memWrite_of_busy hp hr hst hsrst, fun hp =>
    ⟨fun hv => ⟨Config.latency s.accepted, ?_⟩, ?_, ?_, ?_, ?_, fun off => memWrite_of_readOnly v hp⟩⟩
  · exact hostStep_refused hhost (admitted_eq_false_iff.mpr ⟨off, 4, .inr ⟨v, rfl⟩, .inr hbad⟩)
  · exact hostStep_wr hhost (refuseAccess_of_admitted hal hwin)
  · exact memWrite_of_idle (r := .cmd) hp rfl (by decide) fun h => hv h.2
  · exact memWrite_of_idle (r := .opDev) hp rfl (by decide) (by simp [cmdOffset])
  · exact memWrite_of_idle (r := .opFn) hp rfl (by decide) (by simp [cmdOffset])
  · exact memWrite_of_idle (r := .opAddr) hp rfl (by decide) (by simp [cmdOffset])
  · exact memWrite_of_idle (r := .opVal) hp rfl (by decide) (by simp [cmdOffset])

/-- Settles O59: the write is admitted and comes before the engine, and R64 has it set OVR alone. -/
theorem busyWriteIsIgnored : Obligations.BusyWriteIsIgnored := by
  intro s w v off rest hp hlat hhost hal hwin hr hst hsrst
  have hturn : engineTurn s = none := engineTurn_eq_none_iff.mpr (.inr ⟨hlat, hhost ▸ List.cons_ne_nil _ _⟩)
  have hb : s.pending ≠ none := hp ▸ Option.some_ne_none w
  calc step s = hostStep (countdown s) := step_of_hostTurn hturn
    _ = memWrite off v { countdown s with host := rest } := hostStep_wr hhost (refuseAccess_of_admitted hal hwin)
    _ = .next (setOverrun { countdown s with host := rest }) := memWrite_of_busy hb hr hst hsrst

end Sys2Proof.Machine
end

section
/-! SUPPORT. The fields of a command word: which words the decoder turns away, what the engine runs for each word, and
the accesses the assembler writes for it; and from it the statements of 30_encoding.md. -/

namespace Sys2Proof

/-! ### The words of the commands (R93) -/

theorem encode_crcByte (b : Byte) : encode (.crcByte b) = 0x00000002#32 ||| b.setWidth 32 <<< 8 := rfl

theorem encode_rxPush (b : Byte) : encode (.rxPush b) = 0x00000021#32 ||| b.setWidth 32 <<< 8 := rfl

/-- Settles O6: each direction is a lemma of its own, `encode_of_decode` by the rows of the table and `decode_encode` by
the fields of a command's word. -/
theorem decodeIffEncode : Obligations.DecodeIffEncode :=
  fun _ i => ⟨fun h => (encode_of_decode h).symm, fun h => h ▸ decode_encode i⟩

/-- Settles O4: a word without operand is computed, and the two with an operand hold at every byte. -/
theorem opcodeMapWords : Obligations.OpcodeMapWords :=
  ⟨rfl, rfl, encode_crcByte, rfl, rfl, rfl, rfl, encode_rxPush, rfl, rfl, rfl⟩

/-- Settles O5: each word is its command's word, so it decodes to that command. -/
theorem sampleWordsDecode : Obligations.SampleWordsDecode := by
  have decodes (w : Word) (i : Instr) (h : w = encode i) : decode w = .ok i := (decodeIffEncode w i).mpr h
  exact ⟨decodes _ _ rfl, decodes _ _ rfl, decodes _ _ rfl, decodes _ _ rfl, decodes _ _ rfl, decodes _ _ rfl,
    decodes _ _ rfl⟩

/-! ### The fields as numbers, and the checks of R96 in terms of them -/

theorem toNat_opcField (w : Word) : (opcField w).toNat = w.toNat % 0x100 := by
  simp [opcField]

theorem toNat_immField (w : Word) : (immField w).toNat = w.toNat / 0x100 % 0x100 := by
  simp [immField, Nat.shiftRight_eq_div_pow]

theorem toNat_rsvField (w : Word) : (rsvField w).toNat = w.toNat / 0x10000 := by
  have hw : w.toNat < 2 ^ 32 := w.isLt
  simp only [rsvField, BitVec.extractLsb'_toNat, Nat.shiftRight_eq_div_pow]
  omega

/-- R93's opcodes, as the decoder compares them (`assignedOpcodes` has their numbers). -/
def opcodeFields : List Byte :=
  [0x00#8, 0x01#8, 0x02#8, 0x03#8, 0x10#8, 0x11#8, 0x20#8, 0x21#8, 0x30#8, 0x31#8, 0xFF#8]

/-- R93's opcodes with a byte operand, as the decoder compares them. -/
def byteOpcodeFields : List Byte := [0x02#8, 0x21#8]

theorem mem_byteOpcodeFields_iff {opc : Byte} : opc ∈ byteOpcodeFields ↔ opc = 0x02#8 ∨ opc = 0x21#8 := by
  simp [byteOpcodeFields]

theorem mem_map_toNat_iff {opc : Byte} {l : List Byte} : opc.toNat ∈ l.map BitVec.toNat ↔ opc ∈ l :=
  List.mem_map_of_injective fun _ _ => BitVec.eq_of_toNat_eq

theorem reservedZero_iff {w : Word} : reservedZero w = true ↔ rsvField w = 0#16 := by
  rw [reservedZero, ← toNat_rsvField, beq_iff_eq, ← BitVec.toNat_inj]
  rfl

theorem opcodeAssigned_iff {w : Word} : opcodeAssigned w = true ↔ opcField w ∈ opcodeFields := by
  rw [opcodeAssigned, ← toNat_opcField, List.contains_iff_mem, ← mem_map_toNat_iff]
  rfl

theorem immediateAllowed_iff {w : Word} :
    immediateAllowed w = true ↔ opcField w ∈ byteOpcodeFields ∨ immField w = 0#8 := by
  rw [immediateAllowed, ← toNat_opcField, ← toNat_immField, Bool.or_eq_true, List.contains_iff_mem, beq_iff_eq,
    ← mem_map_toNat_iff, ← BitVec.toNat_inj]
  rfl

theorem srstExact_iff {w : Word} : srstExact w = true ↔ (opcField w = 0xFF#8 → w = srstWord) := by
  rw [srstExact, ← toNat_opcField, Bool.or_eq_true, bne_iff_ne, beq_iff_eq]
  exact imp_iff_not_or.symm.trans (imp_congr_left (BitVec.toNat_inj (y := 0xFF#8)))

theorem eq_srstWord_iff {w : Word} : w = srstWord ↔ rsvField w = 0#16 ∧ opcField w = 0xFF#8 ∧ immField w = 0#8 := by
  refine ⟨fun h => h ▸ by decide, fun ⟨hrsv, hopc, himm⟩ => ?_⟩
  rw [← commandWord_fields hrsv, hopc, himm]
  rfl

/-! ### Which words the decoder turns away -/

theorem decode_of_rsvField {w : Word} (h : rsvField w = 0#16) : decode w = decodeOpcode (opcField w) (immField w) :=
  if_pos h

theorem decode_of_rsvField_ne {w : Word} (h : rsvField w ≠ 0#16) : decode w = .error (.reservedBits (rsvField w)) :=
  if_neg h

theorem withoutImm_error_iff {opc imm : Byte} {i : Instr} : (∃ e, withoutImm opc imm i = .error e) ↔ imm ≠ 0#8 := by
  by_cases h : imm = 0#8 <;> simp [withoutImm, h]

/-- One case for each row of R93's table: nine take no immediate, two take any. -/
theorem decodeOpcode_error_iff_of_mem {opc imm : Byte} (h : opc ∈ opcodeFields) :
    (∃ e, decodeOpcode opc imm = .error e) ↔ opc ∉ byteOpcodeFields ∧ imm ≠ 0#8 := by
  have noImm {opc : Byte} {i : Instr} (hdec : decodeOpcode opc imm = withoutImm opc imm i)
      (hb : opc ∉ byteOpcodeFields) :
      (∃ e, decodeOpcode opc imm = .error e) ↔ opc ∉ byteOpcodeFields ∧ imm ≠ 0#8 := by
    rw [hdec, withoutImm_error_iff, and_iff_right hb]
  have anyImm {opc : Byte} {i : Instr} (hdec : decodeOpcode opc imm = .ok i) (hb : opc ∈ byteOpcodeFields) :
      (∃ e, decodeOpcode opc imm = .error e) ↔ opc ∉ byteOpcodeFields ∧ imm ≠ 0#8 := by
    simp only [hdec, hb, reduceCtorEq, exists_false, not_true_eq_false, false_and]
  simp only [opcodeFields, List.mem_cons, List.not_mem_nil, or_false] at h
  obtain rfl | rfl | rfl | rfl | rfl | rfl | rfl | rfl | rfl | rfl | rfl := h
  · exact noImm (i := .nop) rfl (by decide)
  · exact noImm (i := .crcInit) rfl (by decide)
  · exact anyImm (i := .crcByte imm) rfl (by decide)
  · exact noImm (i := .crcRx) rfl (by decide)
  · exact noImm (i := .encode) rfl (by decide)
  · exact noImm (i := .loopback) rfl (by decide)
  · exact noImm (i := .rxClear) rfl (by decide)
  · exact anyImm (i := .rxPush imm) rfl (by decide)
  · exact noImm (i := .decode) rfl (by decide)
  · exact noImm (i := .parse) rfl (by decide)
  · by_cases himm : imm = 0#8 <;> simp [decodeOpcode, byteOpcodeFields, himm]

theorem decodeOpcode_of_not_mem {opc : Byte} (imm : Byte) (h : opc ∉ opcodeFields) :
    decodeOpcode opc imm = .error (.unassignedOpcode opc) := by
  simp only [opcodeFields, List.mem_cons, List.not_mem_nil, or_false, not_or] at h
  simp [decodeOpcode, h]

/-- R96's four points, field by field. -/
theorem decode_error_iff {w : Word} :
    (∃ e, decode w = .error e) ↔
      rsvField w ≠ 0#16 ∨ opcField w ∉ opcodeFields ∨
      (opcField w ≠ 0x02#8 ∧ opcField w ≠ 0x21#8 ∧ opcField w ≠ 0xFF#8 ∧ immField w ≠ 0#8) ∨
      (opcField w = 0xFF#8 ∧ w ≠ srstWord) := by
  by_cases hrsv : rsvField w = 0#16
  · by_cases hmem : opcField w ∈ opcodeFields
    · rw [decode_of_rsvField hrsv, decodeOpcode_error_iff_of_mem hmem, ne_eq w, eq_srstWord_iff]
      by_cases hff : opcField w = 0xFF#8
      · simp [hrsv, hff, opcodeFields, byteOpcodeFields]
      · simp [hrsv, hmem, hff, mem_byteOpcodeFields_iff, and_assoc]
    · simp [decode_of_rsvField hrsv, decodeOpcode_of_not_mem _ hmem, hmem]
  · simp [decode_of_rsvField_ne hrsv, hrsv]

/-- The four checks of WellFormed.lean are the four points. -/
theorem legalWord_eq_false_iff {w : Word} : legalWord w = false ↔ ∃ e, decode w = .error e := by
  rw [decode_error_iff, ← Bool.not_eq_true, legalWord, Bool.and_eq_true, Bool.and_eq_true, Bool.and_eq_true,
    reservedZero_iff, opcodeAssigned_iff, immediateAllowed_iff, srstExact_iff]
  have himm : w = srstWord → immField w = 0#8 := fun h => (eq_srstWord_iff.mp h).2.2
  rw [mem_byteOpcodeFields_iff]
  tauto

end Sys2Proof

namespace Sys2Proof.Machine

/-! ### What the engine runs for a word (R95) -/

theorem perform_of_fields {w : Word} {opc imm : Byte} {i : Instr} (s : State) (hrsv : rsvField w = 0#16)
    (h : decodeOpcode opc imm = .ok i) (hi : i ≠ .srst) (hopc : opcField w = opc) (himm : immField w = imm) :
    perform w s = exec i s := by
  subst hopc himm
  exact perform_of_command s ((decode_of_rsvField hrsv).trans h) hi

theorem reportsIllegal_of_error {w : Word} (h : ∃ e, decode w = .error e) : reportsIllegal w :=
  fun s => h.elim fun _ he => perform_of_illegal s he

/-- With OPC 0xFF the engine runs nothing, whether the word is SRST (log 9) or not (R96). -/
theorem reportsIllegal_of_opcField_srst {w : Word} (h : opcField w = 0xFF#8) : reportsIllegal w := by
  by_cases hw : w = srstWord
  · exact fun s => perform_of_srstWord s (hw ▸ decode_encode .srst)
  · exact reportsIllegal_of_error (decode_error_iff.mpr (.inr (.inr (.inr ⟨h, hw⟩))))

/-- Settles O7: R96's points are those of the decoder and of the checks, and the engine reports every such word. -/
theorem illegalWordsReportAndChangeNothing : Obligations.IllegalWordsReportAndChangeNothing :=
  fun _ => ⟨decode_error_iff, legalWord_eq_false_iff, reportsIllegal_of_error⟩

/-- Settles O9: one clause for each row of the dispatch. -/
theorem performDispatch : Obligations.PerformDispatch := by
  intro w s opc imm illegal
  refine ⟨fun hrsv => reportsIllegal_of_error (decode_error_iff.mpr (.inl hrsv)) s, fun hrsv => ?_⟩
  have runs {c b : Byte} {i : Instr} (h : decodeOpcode c b = .ok i) (hi : i ≠ .srst) (hopc : opc = c) (himm : imm = b) :
      perform w s = exec i s := perform_of_fields s hrsv h hi hopc himm
  refine ⟨fun hopc => runs rfl nofun hopc rfl, fun hopc => runs rfl nofun hopc rfl, fun hopc himm => ?_,
    runs rfl nofun, runs rfl nofun, runs rfl nofun, runs rfl nofun, runs rfl nofun, runs rfl nofun, runs rfl nofun,
    runs rfl nofun, fun hopc => ?_⟩
  · have hne (b : Byte) (hb : b ∉ [0x00#8, 0x01#8, 0x03#8, 0x10#8, 0x11#8, 0x20#8, 0x30#8, 0x31#8]) : opc ≠ b :=
      fun h => hb (h ▸ hopc)
    exact reportsIllegal_of_error (decode_error_iff.mpr (.inr (.inr (.inl
      ⟨hne 0x02#8 (by decide), hne 0x21#8 (by decide), hne 0xFF#8 (by decide), himm⟩)))) s
  · by_cases hff : opc = 0xFF#8
    · exact reportsIllegal_of_opcField_srst hff s
    · have hmem : opc ∉ opcodeFields := fun h =>
        ((List.mem_append (t := [0xFF#8])).mp h).elim hopc fun h => hff (List.mem_singleton.mp h)
      exact reportsIllegal_of_error (decode_error_iff.mpr (.inr (.inl hmem))) s

/-! ### SRST and the port (R94) -/

/-- Only a write of CMD makes a word pending. -/
theorem writeReg_pending (v : Word) (s : State) (r : Reg) :
    (r = .cmd ∧ (writeReg v s r).pending = some v) ∨ (writeReg v s r).pending = s.pending := by
  cases r with
  | cmd => exact .inl ⟨rfl, rfl⟩
  | _ => exact .inr rfl

/-- What a move of the host does to PENDING: it is taken away, kept, or a word other than SRST is accepted. -/
theorem hostEffect_pending {s t : State} (h : HostEffect s t) :
    t.pending = none ∨ t.pending = s.pending ∨ ∃ v, v ≠ srstWord ∧ t.pending = some v := by
  cases h with
  | quiet ht => exact .inr (.inl (ht ▸ rfl))
  | reset e rest _ _ ht => exact .inl (ht ▸ rfl)
  | status v rest _ ht =>
    rw [ht, writeStatus_frame]
    exact .inr (.inl rfl)
  | overrun off v rest _ _ _ _ _ ht => exact .inr (.inl (ht ▸ rfl))
  | register r v rest _ hsrst _ ht =>
    rw [ht]
    obtain ⟨rfl, hp⟩ | hp := writeReg_pending v { s with host := rest } r
    · exact .inr (.inr ⟨v, fun hv => hsrst ⟨rfl, hv⟩, hp⟩)
    · exact .inr (.inl hp)

/-- No step of either agent makes the SRST word pending. -/
theorem step_pending_ne_srstWord {s t : State} (h : step s = .next t) (hs : s.pending ≠ some srstWord) :
    t.pending ≠ some srstWord := by
  obtain ⟨w, u, -, -, rfl⟩ | ⟨-, he⟩ := step_effect h
  · simp
  · obtain hp | hp | ⟨v, hv, hp⟩ := hostEffect_pending he
    · simp [hp]
    · exact hp ▸ hs
    · simp [hp, hv]

/-- Settles O8: SRST resets inside the write, another word is accepted and decodes to no command, and no step makes SRST
pending. -/
theorem srstOnlyAsExactWord : Obligations.SrstOnlyAsExactWord := by
  refine ⟨fun s t h => ?_, fun w hopc hw => ⟨fun s hp => ?_, reportsIllegal_of_opcField_srst hopc⟩,
    fun s t => step_pending_ne_srstWord⟩
  · obtain rfl : blockReset s = t := Host.Outcome.next.inj ((memWrite_srst s).symm.trans h)
    exact blockReset_pending s
  · exact ⟨acceptWord w s, memWrite_of_idle (r := .cmd) hp rfl (by decide) fun h => hw h.2, rfl⟩

/-! ### The accesses the assembler writes (R99) -/

theorem asmByte_of_le {b : Nat} (h : b ≤ 255) : asmByte b = .ok (BitVec.ofNat 8 b) := if_pos (by omega)

theorem asmByte_of_gt {b : Nat} (h : 255 < b) : asmByte b = .error (.byteOutOfRange b) := if_neg (by omega)

theorem asmByteCommand_of_le (f : Byte → Instr) {b : Nat} (h : b ≤ 255) :
    asmByteCommand f b = .ok (asmCommand (f (BitVec.ofNat 8 b))) := by
  rw [asmByteCommand, asmByte_of_le h]
  rfl

theorem asmByteCommand_of_gt (f : Byte → Instr) {b : Nat} (h : 255 < b) :
    asmByteCommand f b = .error (.byteOutOfRange b) := by
  rw [asmByteCommand, asmByte_of_gt h]
  rfl

theorem asmByteCommands_of_le (f : Byte → Instr) {bs : List Nat} (h : ∀ b ∈ bs, b ≤ 255) :
    asmByteCommands f bs = .ok (bs.flatMap fun b => asmCommand (f (BitVec.ofNat 8 b))) := by
  induction bs with
  | nil => rfl
  | cons b bs ih =>
    obtain ⟨hb, hbs⟩ := List.forall_mem_cons.mp h
    rw [asmByteCommands, asmByteCommand_of_le f hb, ih hbs]
    rfl

theorem asmWrite_of_lt {cap n : Nat} {r : Reg} (hn : n < 2 ^ 32) (hr : r.exists? cap = true) :
    asmWrite cap r n = .ok [.wr r.offset 4 (BitVec.ofNat 32 n)] := by
  have hword : asmWord n = .ok (BitVec.ofNat 32 n) := if_pos hn
  rw [asmWrite, hword]
  exact if_pos hr

theorem asmSetop_of_lt {cap d f a v : Nat} (hd : d < 2 ^ 32) (hf : f < 2 ^ 32) (ha : a < 2 ^ 32) (hv : v < 2 ^ 32) :
    asmSetop cap d f a v =
      .ok [.wr 0x010 4 (BitVec.ofNat 32 d), .wr 0x014 4 (BitVec.ofNat 32 f), .wr 0x018 4 (BitVec.ofNat 32 a),
        .wr 0x01C 4 (BitVec.ofNat 32 v)] := by
  rw [asmSetop, asmWrite_of_lt hd rfl, asmWrite_of_lt hf rfl, asmWrite_of_lt ha rfl, asmWrite_of_lt hv rfl]
  rfl

/-- A byte operand that fits stands in the word as it is. -/
theorem setWidth_ofNat_of_le {b : Nat} (h : b ≤ 255) : (BitVec.ofNat 8 b).setWidth 32 = BitVec.ofNat 32 b :=
  BitVec.setWidth_ofNat_of_le_of_lt (by omega) (by omega)

theorem asmCommand_crcByte {b : Nat} (h : b ≤ 255) :
    asmCommand (.crcByte (BitVec.ofNat 8 b)) = [.wr cmdOffset 4 (0x00000002#32 ||| BitVec.ofNat 32 b <<< 8), .poll] := by
  rw [asmCommand, encode_crcByte, setWidth_ofNat_of_le h]

theorem asmCommand_rxPush {b : Nat} (h : b ≤ 255) :
    asmCommand (.rxPush (BitVec.ofNat 8 b)) = [.wr cmdOffset 4 (0x00000021#32 ||| BitVec.ofNat 32 b <<< 8), .poll] := by
  rw [asmCommand, encode_rxPush, setWidth_ofNat_of_le h]

/-- Settles O60: the mnemonics are computed, and the byte lists and the operand writes have a lemma each. -/
theorem mnemonicsAndPseudoInstructions : Obligations.MnemonicsAndPseudoInstructions := by
  intro cap
  refine ⟨⟨rfl, rfl, rfl, rfl, rfl, rfl, rfl, rfl, rfl, rfl⟩, fun b hb => ?_, fun b hb => ?_, fun bs hbs => ?_,
    fun d f a v hd hf ha hv => ?_⟩
  · exact ⟨(asmByteCommand_of_le _ hb).trans (congrArg _ (asmCommand_crcByte hb)),
      (asmByteCommand_of_le _ hb).trans (congrArg _ (asmCommand_rxPush hb))⟩
  · exact ⟨asmByteCommand_of_gt _ hb, asmByteCommand_of_gt _ hb⟩
  · rw [assemble, assemble, asmByteCommands_of_le _ hbs, asmByteCommands_of_le _ hbs,
      List.flatMap_congr fun b hb => asmCommand_crcByte (hbs b hb),
      List.flatMap_congr fun b hb => asmCommand_rxPush (hbs b hb)]
    exact ⟨rfl, rfl⟩
  · rw [assemble, assemble, asmSetop_of_lt hd hf ha hv]
    exact ⟨rfl, rfl⟩

end Sys2Proof.Machine
end

section
/-! SUPPORT. The algebra of the CRC: one round bit by bit, that rounds are injective and distribute over XOR, what two
bytes at the end of a sequence do, and the reflection that carries the rounds to the catalogue's; and from it the
statements of 40_crc.md. -/

namespace Sys2Proof.Machine

/-! ### One round and n rounds (R120) -/

/-- Bit 0, tested before the shift, goes wherever the polynomial has a bit. -/
theorem getLsbD_crcShift (acc : Half) (i : Nat) :
    (crcShift acc).getLsbD i = ((acc.getLsbD 0 && crcPoly.getLsbD i) ^^ acc.getLsbD (i + 1)) := by
  unfold crcShift
  cases h : acc.getLsbD 0
  · simp [Nat.add_comm 1 i]
  · simp [Nat.add_comm 1 i, Bool.xor_comm]

theorem crcShift_xor (x y : Half) : crcShift (x ^^^ y) = crcShift x ^^^ crcShift y := by
  apply BitVec.eq_of_getLsbD_eq
  intro i _
  simp only [BitVec.getLsbD_xor, getLsbD_crcShift, Bool.and_xor_distrib_right, Bool.xor_assoc, Bool.xor_left_comm]

/-- A round loses nothing: the polynomial's top bit is set, so bit 15 of the result is the bit shifted out. -/
theorem crcShift_injective : Function.Injective crcShift := by
  intro x y h
  have hbit (i : Nat) : (crcShift x).getLsbD i = (crcShift y).getLsbD i := by rw [h]
  simp only [getLsbD_crcShift] at hbit
  have hlow : x.getLsbD 0 = y.getLsbD 0 := by simpa [crcPoly, BitVec.getLsbD_of_ge] using hbit 15
  apply BitVec.eq_of_getLsbD_eq
  intro i _
  cases i with
  | zero => exact hlow
  | succ i => exact Bool.xor_right_inj.mp (hlow ▸ hbit i)

theorem crcShifts_eq_iterate (n : Nat) : crcShifts n = crcShift^[n] := by
  induction n with
  | zero => rfl
  | succ n ih => rw [Function.iterate_succ, ← ih]; rfl

theorem crcShifts_injective (n : Nat) : Function.Injective (crcShifts n) :=
  crcShifts_eq_iterate n ▸ crcShift_injective.iterate n

@[simp] theorem crcShifts_of_zero (n : Nat) : crcShifts n 0 = 0 :=
  crcShifts_eq_iterate n ▸ Function.iterate_fixed rfl n

theorem crcShifts_xor (n : Nat) (x y : Half) : crcShifts n (x ^^^ y) = crcShifts n x ^^^ crcShifts n y := by
  induction n generalizing x y with
  | zero => rfl
  | succ n ih => rw [crcShifts_succ, crcShift_xor, ih]; rfl

/-- While the bits shifted out are 0, the polynomial is never added. -/
theorem crcShifts_of_low_bits_zero {n : Nat} {x : Half} (h : ∀ i < n, x.getLsbD i = false) :
    crcShifts n x = x >>> n := by
  induction n generalizing x with
  | zero => simp
  | succ n ih =>
    have hshift : crcShift x = x >>> 1 := if_neg (by rw [h 0 (by omega)]; decide)
    have hlow (i : Nat) (hi : i < n) : (x >>> 1).getLsbD i = false := by
      rw [BitVec.getLsbD_ushiftRight]
      exact h (1 + i) (by omega)
    rw [crcShifts_succ, hshift, ih hlow, ← BitVec.shiftRight_add, Nat.add_comm]

/-! ### One byte, and single-bit errors -/

theorem crcStep_left_injective (b : Byte) : Function.Injective (crcStep · b) :=
  fun _ _ h => (BitVec.xor_left_inj _).mp (crcShifts_injective 8 h)

theorem crcStep_right_injective (acc : Half) : Function.Injective (crcStep acc) := fun b c h => by
  have hwide : b.setWidth 16 = c.setWidth 16 := (BitVec.xor_right_inj _).mp (crcShifts_injective 8 h)
  simpa using congrArg (BitVec.setWidth 8) hwide

theorem foldl_crcStep_injective (bytes : List Byte) : Function.Injective (bytes.foldl crcStep) := by
  induction bytes with
  | nil => exact Function.injective_id
  | cons b bs ih => exact ih.comp (crcStep_left_injective b)

/-- Two sequences that differ in one byte have different CRCs. -/
theorem crc16_replace_injective (pre post : List Byte) : Function.Injective fun b => crc16 (pre ++ b :: post) := by
  intro b c h
  simp only [crc16_append_foldl, List.foldl_cons] at h
  exact crcStep_right_injective _ (foldl_crcStep_injective post h)

theorem xor_bit_ne_self {k : Nat} (hk : k < 8) (b : Byte) : b ^^^ (1#8 <<< k) ≠ b := fun h => by
  have hbit : (b ^^^ (1#8 <<< k)).getLsbD k = b.getLsbD k := by rw [h]
  simp [hk] at hbit

/-- Settles O28: the flipped byte is another byte, and the CRC is injective in each byte. -/
theorem crcDetectsSingleBitError : Obligations.CrcDetectsSingleBitError :=
  fun pre post b _ hk => (crc16_replace_injective pre post).ne (xor_bit_ne_self hk b)

/-! ### Two bytes at the end: the residue (R125) -/

theorem le16_eq_xor (b0 b1 : Byte) : le16 b0 b1 = b0.setWidth 16 ^^^ b1.setWidth 16 <<< 8 := by
  apply BitVec.eq_of_getLsbD_eq
  intro i hi
  by_cases h : i < 8
  · simp [le16, h]
  · simp [le16, h, BitVec.getLsbD_of_ge b0 i (by omega)]

theorem crcShifts_high_byte (b : Byte) : crcShifts 8 (b.setWidth 16 <<< 8) = b.setWidth 16 := by
  rw [crcShifts_of_low_bits_zero fun i hi => by simp [hi]]
  apply BitVec.eq_of_getLsbD_eq
  intro i hi
  by_cases h : i < 8
  · simp [hi, show 8 + i < 16 by omega]
  · simp [show ¬ 8 + i < 16 by omega, BitVec.getLsbD_of_ge b i (by omega)]

/-- Two bytes are sixteen rounds over the 16-bit value they spell, low byte first: the second byte may be put into the
high byte eight rounds before it is due. -/
theorem crcStep_crcStep (acc : Half) (b0 b1 : Byte) :
    crcStep (crcStep acc b0) b1 = crcShifts 16 (acc ^^^ le16 b0 b1) := by
  calc crcShifts 8 (crcShifts 8 (acc ^^^ b0.setWidth 16) ^^^ b1.setWidth 16)
      = crcShifts 8 (crcShifts 8 (acc ^^^ b0.setWidth 16 ^^^ b1.setWidth 16 <<< 8)) := by
        rw [crcShifts_xor 8 (acc ^^^ _), crcShifts_high_byte]
    _ = crcShifts 16 (acc ^^^ le16 b0 b1) := by rw [← crcShifts_add, le16_eq_xor, BitVec.xor_assoc]

theorem crc16_append_pair_eq_zero_iff (bytes : List Byte) (b0 b1 : Byte) :
    crc16 (bytes ++ [b0, b1]) = 0 ↔ crc16 bytes = le16 b0 b1 := by
  rw [crc16_append_foldl, List.foldl_cons, List.foldl_cons, List.foldl_nil, crcStep_crcStep, ← crcShifts_of_zero 16,
    (crcShifts_injective 16).eq_iff]
  exact BitVec.xor_eq_zero_iff

theorem eq_le16_iff {n : Half} {b0 b1 : Byte} : n = le16 b0 b1 ↔ b0 = lo8 n ∧ b1 = hi8 n := by
  constructor
  · rintro rfl
    simp [le16_eq_be16]
  · rintro ⟨rfl, rfl⟩
    exact (le16_lo8_hi8 n).symm

/-- Settles O26: the whole folds to 0 exactly when the two bytes spell the CRC, low byte first. -/
theorem crcResidueIsZero : Obligations.CrcResidueIsZero :=
  fun bytes b0 b1 => (crc16_append_pair_eq_zero_iff bytes b0 b1).trans eq_le16_iff

/-! ### The catalogue's form (R126) -/

theorem reverse_xor {w : Nat} (x y : BitVec w) : (x ^^^ y).reverse = x.reverse ^^^ y.reverse :=
  BitVec.eq_of_getMsbD_eq fun i _ => by simp [BitVec.getMsbD_reverse]

theorem reverse_shiftRight {w : Nat} (x : BitVec w) (n : Nat) : (x >>> n).reverse = x.reverse <<< n :=
  BitVec.eq_of_getMsbD_eq fun i _ => by simp [BitVec.getMsbD_reverse, Nat.add_comm]

/-- The low byte of a 16-bit value, reflected, is its high byte. -/
theorem reverse_setWidth_byte (b : Byte) : (b.setWidth 16).reverse = b.reverse.setWidth 16 <<< 8 :=
  BitVec.eq_of_getMsbD_eq fun i hi => by simp [BitVec.getMsbD_reverse, hi]

/-- Reflection carries a round of the shift-right form to one of the catalogue's; 0x8005 is 0xA001 reflected. -/
theorem reverse_crcShift : Function.Semiconj BitVec.reverse crcShift catalogueShift := by
  intro acc
  have htest : acc.reverse.getLsbD 15 = acc.getLsbD 0 := BitVec.getLsbD_reverse
  have hpoly : 0x8005#16 = crcPoly.reverse := by decide
  rw [crcShift, catalogueShift, apply_ite BitVec.reverse, htest, hpoly, reverse_xor, reverse_shiftRight]

theorem reverse_crcStep (acc : Half) (b : Byte) :
    (crcStep acc b).reverse = catalogueShift^[8] (acc.reverse ^^^ b.reverse.setWidth 16 <<< 8) := by
  rw [crcStep, crcShifts_eq_iterate, reverse_crcShift.iterate_right 8 _, reverse_xor, reverse_setWidth_byte]

theorem catalogueCrc_eq_crc16 (bytes : List Byte) : catalogueCrc bytes = crc16 bytes := by
  have hinit : 0xFFFF#16 = crcInitial.reverse := by decide
  rw [catalogueCrc, BitVec.xor_zero, hinit,
    List.foldl_hom BitVec.reverse fun acc b => (reverse_crcStep acc b).symm, BitVec.reverse_reverse_eq]
  rfl

/-- Settles O27: the two forms are reflections of each other, byte for byte; the check value is computed. -/
theorem crcEqualsCatalogue : Obligations.CrcEqualsCatalogue :=
  ⟨fun bytes => (catalogueCrc_eq_crc16 bytes).symm, by decide +kernel⟩

/-! ### The step and the fold -/

/-- Settles O20: the rounds are an iteration, and the two examples are computed. -/
theorem crcStepAlgorithm : Obligations.CrcStepAlgorithm :=
  ⟨fun acc b => congrFun (crcShifts_eq_iterate 8) (acc ^^^ b.setWidth 16), by decide, by decide⟩

/-- Settles O21: the fold splits at the last byte, and the example is computed. -/
theorem crcOfSequence : Obligations.CrcOfSequence :=
  ⟨rfl, fun bytes b => crc16_append_foldl bytes [b], by decide +kernel, by decide, by decide⟩

/-! ### The commands -/

theorem reportsIllegal_of_rsvField_ne {w : Word} (h : rsvField w ≠ 0#16) : reportsIllegal w :=
  reportsIllegal_of_error (decode_error_iff.mpr (.inl h))

/-- An opcode that takes no immediate has one legal word (R96, its first and third points). -/
theorem reportsIllegal_of_ne_commandWord {w : Word} {opc : Byte} (himm : opc ∉ byteOpcodeFields)
    (hopc : opcField w = opc) (hne : w ≠ commandWord opc 0#8) : reportsIllegal w := by
  subst hopc
  by_cases hrsv : rsvField w = 0#16
  · have hw : immField w ≠ 0#8 := fun h => hne (h ▸ (commandWord_fields hrsv).symm)
    by_cases hff : opcField w = 0xFF#8
    · exact reportsIllegal_of_opcField_srst hff
    · rw [mem_byteOpcodeFields_iff, not_or] at himm
      exact reportsIllegal_of_error (decode_error_iff.mpr (.inr (.inr (.inl ⟨himm.1, himm.2, hff, hw⟩))))
  · exact reportsIllegal_of_rsvField_ne hrsv

/-- Settles O22: the effect is `exec_crcInit`, and reset has the accumulator at 0xFFFF already. -/
theorem crcInitSetsAccumulator : Obligations.CrcInitSetsAccumulator :=
  ⟨rfl, fun _ => reportsIllegal_of_ne_commandWord (by decide), exec_crcInit, exec_crcInit State.reset⟩

/-- Settles O23: the word is `encode_crcByte` and the effect `exec_crcByte`. -/
theorem crcByteFoldsOneByte : Obligations.CrcByteFoldsOneByte :=
  ⟨encode_crcByte, fun _ _ => reportsIllegal_of_rsvField_ne, exec_crcByte⟩

/-- CRC_BYTE over a sequence folds it into CRC_ACC, whatever CRC_ACC was; ERR is 0 before the first and after each. -/
theorem execAll_crcByte (bytes : List Byte) (s : State) :
    execAll (bytes.map .crcByte) (finish .ok s) =
      .next (finish .ok { s with crcAcc := bytes.foldl crcStep s.crcAcc }) := by
  induction bytes generalizing s with
  | nil => rfl
  | cons b bs ih => exact ih { s with crcAcc := crcStep s.crcAcc b }

/-- Settles O24: CRC_INIT starts the fold at 0xFFFF. -/
theorem streamedCrcEqualsSequenceCrc : Obligations.StreamedCrcEqualsSequenceCrc :=
  fun s bytes => execAll_crcByte bytes { s with crcAcc := crcInitial }

/-- The received bytes as R183 cuts them: those the CRC covers, and the two that carry it. -/
theorem rxBytes_eq_append_pair {s : State} (h : 2 ≤ s.rxLen.toNat) :
    rxBytes s = s.rx.readRange 0 (s.rxLen.toNat - 2) ++
      [s.rx.readCell (s.rxLen.toNat - 2), s.rx.readCell (s.rxLen.toNat - 1)] := by
  obtain ⟨n, hn⟩ := Nat.exists_eq_add_of_le' h
  simp [rxBytes, hn, readRange_succ]

/-- The checksum test of R183 is the residue test on the whole buffer. -/
theorem crc16_rxBytes_eq_zero_iff {s : State} (h : 2 ≤ s.rxLen.toNat) :
    crc16 (rxBytes s) = 0 ↔ computedCrc s = carriedCrc s := by
  rw [rxBytes_eq_append_pair h]
  exact crc16_append_pair_eq_zero_iff _ _ _

/-- Settles O25: the effect is `exec_crcRx`; an empty buffer has no bytes, and a correct CRC leaves no residue. -/
theorem crcRxComputesBufferCrc : Obligations.CrcRxComputesBufferCrc := by
  refine ⟨rfl, fun _ => reportsIllegal_of_ne_commandWord (by decide), exec_crcRx, fun s hempty => ?_,
    fun s hlen hcrc => ?_⟩
  · rw [exec_crcRx, rxBytes, hempty]
    rfl
  · rw [exec_crcRx, (crc16_rxBytes_eq_zero_iff hlen).mpr hcrc]
    rfl

end Sys2Proof.Machine
end

section
/-! SUPPORT. The request frame read back byte by byte, and ENCODE, LOOPBACK and PARSE as the three stages of the round
trip: what each leaves for the next, said once; and from it the statements of 41_encode.md. -/

namespace Sys2Proof.Machine

/-! ### The frame (R140) -/

/-- Settles O29: `hi8` and `lo8` are the shift and the truncations that R140 writes out. -/
theorem requestFrameLayout : Obligations.RequestFrameLayout := fun _ _ _ _ => ⟨rfl, rfl⟩

theorem eq_be16_iff {n : Half} {b0 b1 : Byte} : n = be16 b0 b1 ↔ b0 = hi8 n ∧ b1 = lo8 n := by
  rw [← le16_eq_be16, eq_le16_iff, and_comm]

/-- A buffer begins with a frame's body exactly when its first six bytes spell the fields. -/
theorem readRange_eq_frameBody_iff {m : Memory 8} {d f : Byte} {a v : Half} :
    m.readRange 0 6 = frameBody d f a v ↔
      m.readCell 0 = d ∧ m.readCell 1 = f ∧ a = be16 (m.readCell 2) (m.readCell 3) ∧
        v = be16 (m.readCell 4) (m.readCell 5) := by
  have hcells : m.readRange 0 6 =
      [m.readCell 0, m.readCell 1, m.readCell 2, m.readCell 3, m.readCell 4, m.readCell 5] := rfl
  simp only [hcells, frameBody, List.cons.injEq, eq_be16_iff, and_true, and_assoc]

/-- A buffer begins with a frame exactly when it begins with the body and the next two bytes carry the body's CRC. -/
theorem readRange_eq_frame_iff {m : Memory 8} {d f : Byte} {a v : Half} :
    m.readRange 0 8 = frame d f a v ↔
      m.readRange 0 6 = frameBody d f a v ∧ crc16 (m.readRange 0 6) = le16 (m.readCell 6) (m.readCell 7) := by
  have hsplit : m.readRange 0 8 = m.readRange 0 6 ++ [m.readCell 6, m.readCell 7] := rfl
  have hcut {p q : List Byte} : m.readRange 0 6 ++ p = frameBody d f a v ++ q ↔
      m.readRange 0 6 = frameBody d f a v ∧ p = q :=
    ⟨fun h => List.append_inj h rfl, fun ⟨hbody, hcrc⟩ => hbody ▸ hcrc ▸ rfl⟩
  rw [hsplit, frame, hcut, eq_le16_iff]
  refine and_congr_right fun hbody => ?_
  simp only [hbody, List.cons.injEq, and_true]

/-! ### ENCODE (R141, R142) -/

/-- The operand registers hold the four fields of a frame, zero-extended: the operands that ENCODE accepts. -/
def HoldsOperands (d f : Byte) (a v : Half) (s : State) : Prop :=
  s.opDev = d.setWidth 32 ∧ s.opFn = f.setWidth 32 ∧ s.opAddr = a.setWidth 32 ∧ s.opVal = v.setWidth 32

theorem operandOutOfRange_iff {s : State} :
    operandOutOfRange s = true ↔
      0xFF < s.opDev.toNat ∨ 0xFF < s.opFn.toNat ∨ 0xFFFF < s.opAddr.toNat ∨ 0xFFFF < s.opVal.toNat := by
  simp [operandOutOfRange, BitVec.lt_def, or_assoc]

/-- What ENCODE leaves when it accepts the operands (R141). -/
def encoded (d f : Byte) (a v : Half) (s : State) : State :=
  finish .ok { s with tx := s.tx.writeRange 0 (frame d f a v), txLen := 8 }

/-- The frame stands in TX[0..TX_LEN). -/
theorem txBytes_encoded (d f : Byte) (a v : Half) (s : State) : txBytes (encoded d f a v s) = frame d f a v :=
  readRange_writeRange s.tx 0 (frame d f a v)

section
variable {d f : Byte} {a v : Half} {s : State} (h : HoldsOperands d f a v s)
include h

theorem HoldsOperands.inRange : operandOutOfRange s = false := by
  obtain ⟨hdev, hfn, haddr, hval⟩ := h
  have := d.isLt
  have := f.isLt
  have := a.isLt
  have := v.isLt
  rw [← Bool.not_eq_true, operandOutOfRange_iff, hdev, hfn, haddr, hval]
  simp only [BitVec.toNat_setWidth]
  omega

theorem HoldsOperands.operandFrame_eq : operandFrame s = frame d f a v := by
  obtain ⟨hdev, hfn, haddr, hval⟩ := h
  simp [operandFrame, hdev, hfn, haddr, hval]

theorem HoldsOperands.exec_encode : exec .encode s = .next (encoded d f a v s) := by
  rw [encoded, ← h.operandFrame_eq]
  exact exec_encode_accepted s h.inRange

end

/-- Settles O30: the range check decides, and an accepted frame is stored over TX[0..8). -/
theorem encodeBuildsFrameOrRejects : Obligations.EncodeBuildsFrameOrRejects := by
  refine ⟨rfl, fun _ => reportsIllegal_of_ne_commandWord (by decide), fun s hout => ?_,
    fun s d f a v hdev hfn haddr hval => ?_⟩
  · exact exec_encode_rejected s (operandOutOfRange_iff.mpr hout)
  · have hops : HoldsOperands d f a v s := ⟨hdev, hfn, haddr, hval⟩
    exact ⟨_, hops.exec_encode, txBytes_encoded d f a v s,
      fun i hi => readCell_writeRange_outside s.tx (frame d f a v) (.inr hi), rfl⟩

/-! ### LOOPBACK (R160) and PARSE of eight bytes (R183, R187, R190) -/

/-- TX_LEN fits in RX_LEN. -/
theorem toNat_txLen_setWidth (s : State) : (s.txLen.setWidth 10).toNat = s.txLen.toNat :=
  BitVec.toNat_setWidth_of_le (by decide)

/-- What LOOPBACK leaves (R160). -/
def loopedBack (s : State) : State :=
  finish .ok { s with rx := s.rx.writeRange 0 (txBytes s), rxLen := s.txLen.setWidth 10 }

theorem exec_loopback_eq_loopedBack (s : State) : exec .loopback s = .next (loopedBack s) := exec_loopback s

/-- What was to be sent has been received. -/
theorem rxBytes_loopedBack (s : State) : rxBytes (loopedBack s) = txBytes s := by
  have hstored := readRange_writeRange s.rx 0 (txBytes s)
  rwa [txBytes, length_readRange, ← toNat_txLen_setWidth s] at hstored

theorem computedCrc_of_rxLen_eight {s : State} (h8 : s.rxLen = 8) : computedCrc s = crc16 (s.rx.readRange 0 6) := by
  rw [computedCrc, h8]
  rfl

theorem carriedCrc_of_rxLen_eight {s : State} (h8 : s.rxLen = 8) :
    carriedCrc s = le16 (s.rx.readCell 6) (s.rx.readCell 7) := by
  rw [carriedCrc, h8]
  rfl

/-- What PARSE leaves of a frame it accepts. -/
def parsed (s : State) : State :=
  finish .ok
    { recordChecksum (clearResults s) with
      resAddr := be16 (s.rx.readCell 2) (s.rx.readCell 3), resVal := be16 (s.rx.readCell 4) (s.rx.readCell 5)
      resValid := true }

theorem exec_parse_accepted {s : State} (h8 : s.rxLen = 8) (hcrc : computedCrc s = carriedCrc s) :
    exec .parse s = .next (parsed s) := by
  have hlen : s.rxLen.toNat = 8 := congrArg BitVec.toNat h8
  obtain ⟨hshort, -⟩ | ⟨-, hne, -⟩ | ⟨-, -, hbody⟩ := examine_cases addressAndValue s
  · omega
  · exact absurd hcrc hne
  · obtain ⟨hne, -⟩ | ⟨-, hrest⟩ := addressAndValue_cases (recordChecksum (clearResults s))
    · exact absurd hlen hne
    · exact congrArg Host.Outcome.next (hbody.trans hrest)

/-- PARSE ends with ERR 0 only when the CRC matches. -/
theorem crc_eq_of_exec_parse_ok {s t : State} (h : exec .parse s = .next t) (hok : t.err = .ok) :
    computedCrc s = carriedCrc s := by
  obtain rfl := Host.Outcome.next.inj h
  obtain ⟨-, ht⟩ | ⟨-, -, ht⟩ | ⟨-, hcrc, -⟩ := examine_cases addressAndValue s
  · exact nomatch (congrArg State.err ht).symm.trans hok
  · exact nomatch (congrArg State.err ht).symm.trans hok
  · exact hcrc

/-! ### The round trip (R143) -/

/-- The host's four writes, in an idle block, leave the fields in the operand registers (R22, R64). -/
theorem writeAll_holdsOperands {s : State} (hp : s.pending = none) (d f : Byte) (a v : Half) :
    ∃ t, writeAll [(0x010, d.setWidth 32), (0x014, f.setWidth 32), (0x018, a.setWidth 32), (0x01C, v.setWidth 32)] s =
        .next t ∧ HoldsOperands d f a v t := by
  obtain ⟨hwrite, -, -⟩ := operandRegisterWriters
  exact ⟨{ s with
    opDev := d.setWidth 32, opFn := f.setWidth 32, opAddr := a.setWidth 32, opVal := v.setWidth 32 },
    by simp [writeAll, hwrite, hp], rfl, rfl, rfl, rfl⟩

/-- An 8-byte RX that PARSE accepts is the frame of the four fields PARSE reports. -/
theorem frame_parsed {s : State} (h8 : s.rxLen = 8) (hcrc : computedCrc s = carriedCrc s) :
    s.rx.readRange 0 8 = frame (parsed s).resDev (parsed s).resFn (parsed s).resAddr (parsed s).resVal := by
  rw [computedCrc_of_rxLen_eight h8, carriedCrc_of_rxLen_eight h8] at hcrc
  exact readRange_eq_frame_iff.mpr ⟨readRange_eq_frameBody_iff.mpr ⟨rfl, rfl, rfl, rfl⟩, hcrc⟩

/-- A frame in an 8-byte RX passes PARSE, which reports its four fields. -/
theorem parsed_of_frame {s : State} {d f : Byte} {a v : Half} (h8 : s.rxLen = 8)
    (hframe : s.rx.readRange 0 8 = frame d f a v) :
    exec .parse s = .next (parsed s) ∧ (parsed s).resDev = d ∧ (parsed s).resFn = f ∧ (parsed s).resAddr = a ∧
      (parsed s).resVal = v ∧ (parsed s).resCrc = (parsed s).resRxcrc ∧
      (parsed s).resCrc = crc16 (frameBody d f a v) := by
  obtain ⟨hbody, hcrc⟩ := readRange_eq_frame_iff.mp hframe
  obtain ⟨hdev, hfn, haddr, hval⟩ := readRange_eq_frameBody_iff.mp hbody
  rw [← carriedCrc_of_rxLen_eight h8, ← computedCrc_of_rxLen_eight h8] at hcrc
  have hcomputed : computedCrc s = crc16 (frameBody d f a v) := hbody ▸ computedCrc_of_rxLen_eight h8
  exact ⟨exec_parse_accepted h8 hcrc, hdev, hfn, haddr.symm, hval.symm, hcrc, hcomputed⟩

/-- From operands that fit, the three commands run through their three stages. -/
theorem HoldsOperands.execAll_encode_loopback_parse {s : State} {d f : Byte} {a v : Half}
    (h : HoldsOperands d f a v s) :
    execAll [.encode, .loopback, .parse] s = exec .parse (loopedBack (encoded d f a v s)) := by
  rw [execAll, h.exec_encode, andThen_next, execAll, exec_loopback_eq_loopedBack, andThen_next, execAll, exec_parse]
  rfl

/-- Settles O31: the stages one after the other, and backwards the frame of what PARSE reports. -/
theorem frameRoundTrip : Obligations.FrameRoundTrip := by
  refine ⟨fun s d f a v hp => ?_, fun s t h8 hparse hok => ?_⟩
  · obtain ⟨u, hwrites, hops⟩ := writeAll_holdsOperands hp d f a v
    rw [hwrites, andThen_next, hops.execAll_encode_loopback_parse]
    have htx := txBytes_encoded d f a v u
    have hrx := (rxBytes_loopedBack (encoded d f a v u)).trans htx
    obtain ⟨hparse, hdev, hfn, haddr, hval, hsame, hcrc⟩ := parsed_of_frame rfl hrx
    obtain ⟨hbody, -⟩ := readRange_eq_frame_iff.mp htx
    exact ⟨_, hparse, rfl, rfl, hdev, hfn, haddr, hval, hsame, hcrc.trans (congrArg crc16 hbody.symm)⟩
  · have hcrc := crc_eq_of_exec_parse_ok hparse hok
    obtain rfl := Host.Outcome.next.inj ((exec_parse_accepted h8 hcrc).symm.trans hparse)
    exact (frame_parsed h8 hcrc).symm

end Sys2Proof.Machine
end

section
/-! SUPPORT. The receive buffer: what RX_PUSH leaves when there is room, its effect on RX[0..RX_LEN), and the induction
over a loaded sequence; and from it the statements of 42_rx_buffer.md. -/

namespace Sys2Proof.Machine

/-! ### RX_CLEAR (R161) and LOOPBACK (R160) -/

/-- Settles O33: the effect is `exec_rxClear`. -/
theorem rxClearKeepsBytes : Obligations.RxClearKeepsBytes :=
  ⟨rfl, fun _ => reportsIllegal_of_ne_commandWord (by decide), exec_rxClear⟩

@[simp] theorem length_txBytes (s : State) : (txBytes s).length = s.txLen.toNat := length_readRange s.tx 0 s.txLen.toNat

theorem readCell_loopedBack_copied {s : State} {i : Nat} (hi : i < s.txLen.toNat) :
    (loopedBack s).rx.readCell i = s.tx.readCell i := by
  have hcopied : (loopedBack s).rx.readCell i = (txBytes s)[i]'((length_txBytes s).symm ▸ hi) :=
    readCell_writeRange_mem s.rx (txBytes s) (Nat.zero_le i) (by simpa using hi)
  simpa [txBytes] using hcopied

theorem readCell_loopedBack_kept {s : State} {i : Nat} (hi : s.txLen.toNat ≤ i) :
    (loopedBack s).rx.readCell i = s.rx.readCell i :=
  readCell_writeRange_outside s.rx (txBytes s) (.inr (by simpa using hi))

/-- Settles O32: the copy covers the indices below TX_LEN and no other. -/
theorem loopbackCopiesTx : Obligations.LoopbackCopiesTx :=
  ⟨rfl, fun _ => reportsIllegal_of_ne_commandWord (by decide), fun s =>
    ⟨loopedBack s, exec_loopback_eq_loopedBack s, toNat_txLen_setWidth s, fun _ => readCell_loopedBack_copied,
      fun _ => readCell_loopedBack_kept, rfl⟩⟩

/-! ### RX_PUSH (R162) -/

/-- What RX_PUSH leaves when the buffer has room. -/
def pushed (b : Byte) (s : State) : State :=
  finish .ok { s with rx := s.rx.writeCell s.rxLen.toNat b, rxLen := s.rxLen + 1 }

section
variable {s : State} (hroom : s.rxLen.toNat < s.rxCap) (b : Byte)
include hroom

theorem exec_rxPush_eq_pushed : exec (.rxPush b) s = .next (pushed b s) := exec_rxPush_room b s hroom.ne

variable (hcap : s.rxCap ≤ 768)
include hcap

/-- RX_LEN does not wrap: a legal capacity is below 2^10. -/
theorem toNat_rxLen_pushed : (pushed b s).rxLen.toNat = s.rxLen.toNat + 1 :=
  BitVec.toNat_add_of_lt (by change s.rxLen.toNat + 1 < 1024; omega)

/-- The byte joins the received ones at their end. -/
theorem rxBytes_pushed : rxBytes (pushed b s) = rxBytes s ++ [b] := by
  have hkept : (pushed b s).rx.readRange 0 s.rxLen.toNat = rxBytes s :=
    readRange_congr _ _ _ _ fun j hj => readCell_writeCell_of_ne s.rx b (by omega)
  have hnew : (pushed b s).rx.readCell s.rxLen.toNat = b := readCell_writeCell_self s.rx s.rxLen.toNat b
  rw [rxBytes, toNat_rxLen_pushed hroom b hcap, readRange_succ, hkept, Nat.zero_add, hnew]

end

/-- Settles O34: full is `exec_rxPush_full`; with room, one cell is written and RX_LEN does not wrap. -/
theorem rxPushAppendsOrReportsFull : Obligations.RxPushAppendsOrReportsFull :=
  ⟨encode_rxPush, fun _ _ => reportsIllegal_of_rsvField_ne, exec_rxPush_full, fun b s hroom hcap =>
    ⟨pushed b s, exec_rxPush_eq_pushed hroom b, toNat_rxLen_pushed hroom b hcap,
      readCell_writeCell_self s.rx s.rxLen.toNat b, fun _ => readCell_writeCell_of_ne s.rx b, rfl⟩⟩

/-! ### A loaded sequence (R162, R163) -/

@[simp] theorem length_rxBytes (s : State) : (rxBytes s).length = s.rxLen.toNat := length_readRange s.rx 0 s.rxLen.toNat

/-- Pushing a sequence for which there is room appends it to the received bytes; ERR is 0 before the first and after
each. -/
theorem execAll_rxPush (bytes : List Byte) {s : State} (hcap : s.rxCap ≤ 768)
    (hfits : s.rxLen.toNat + bytes.length ≤ s.rxCap) (hok : s.err = .ok) :
    ∃ t, execAll (bytes.map .rxPush) s = .next t ∧ rxBytes t = rxBytes s ++ bytes ∧ t.err = .ok ∧
      t.rxCap = s.rxCap := by
  induction bytes generalizing s with
  | nil => exact ⟨s, rfl, (List.append_nil _).symm, hok, rfl⟩
  | cons b bs ih =>
    rw [List.length_cons] at hfits
    have hroom : s.rxLen.toNat < s.rxCap := by omega
    have hlen := toNat_rxLen_pushed hroom b hcap
    obtain ⟨t, hrun, hbytes, herr, hkeep⟩ := ih (s := pushed b s) hcap (by change _ ≤ s.rxCap; omega) rfl
    refine ⟨t, ?_, ?_, herr, hkeep⟩
    · rw [List.map_cons, execAll, exec_rxPush_eq_pushed hroom b, andThen_next, hrun]
    · rw [hbytes, rxBytes_pushed hroom b hcap, List.append_assoc, List.singleton_append]

/-- Settles O35: RX_CLEAR leaves no received bytes and the pushes append the sequence; when that fills the buffer, one
more push meets `exec_rxPush_full`. -/
theorem loadedBytesAreInRx : Obligations.LoadedBytesAreInRx := by
  intro s bytes hcap hfits
  obtain ⟨t, hrun, hbytes, herr, hkeep⟩ :=
    execAll_rxPush bytes (s := finish .ok { s with rxLen := 0 }) hcap (by simpa using hfits) rfl
  have hlen : t.rxLen.toNat = bytes.length := by
    rw [← length_rxBytes, hbytes]
    rfl
  refine ⟨t, hrun, hbytes, hlen, herr, fun b hfull => ?_⟩
  rw [execAll, exec_rxPush_full b t (hlen.trans (hfull.trans hkeep.symm))]
  rfl

end Sys2Proof.Machine
end

section
/-! SUPPORT. The frame decoder: what the common steps and each response do in each of their cases, and what every body
keeps of the checksum step; the residue of a frame with one bit flipped; and from it the statements of 43_decode.md. -/

namespace Sys2Proof.Machine

/-! ### The common steps (R180, R182, R183) -/

theorem examine_tooShort (body : State → State) {s : State} (hshort : s.rxLen.toNat < 3) :
    examine body s = finish .frameTooShort (clearResults s) := if_pos hshort

theorem examine_mismatch (body : State → State) {s : State} (hlen : 3 ≤ s.rxLen.toNat)
    (hcrc : computedCrc s ≠ carriedCrc s) :
    examine body s = finish .checksumMismatch (recordChecksum (clearResults s)) :=
  (if_neg hlen.not_gt).trans (if_pos hcrc)

theorem examine_passed (body : State → State) {s : State} (hlen : 3 ≤ s.rxLen.toNat)
    (hcrc : computedCrc s = carriedCrc s) : examine body s = body (recordChecksum (clearResults s)) :=
  (if_neg hlen.not_gt).trans (if_neg (not_not.mpr hcrc))

theorem err_examine (body : State → State) (s : State) :
    (examine body s).err =
      if s.rxLen.toNat < 3 then .frameTooShort
      else if computedCrc s ≠ carriedCrc s then .checksumMismatch
      else (body (recordChecksum (clearResults s))).err := by
  simp only [examine, apply_ite State.err, finish_err]

theorem err_examine_mem {body : State → State} {codes : List Code} (hbody : ∀ r, (body r).err ∈ codes) (s : State) :
    (examine body s).err ∈ .frameTooShort :: .checksumMismatch :: codes := by
  rw [err_examine]
  split
  · exact List.mem_cons_self
  · split
    · exact List.mem_cons_of_mem _ List.mem_cons_self
    · exact List.mem_cons_of_mem _ (List.mem_cons_of_mem _ (hbody _))

/-- Only a frame that passes both checks can end with OK. -/
theorem examine_ok {body : State → State} {s : State} (hok : (examine body s).err = .ok) :
    3 ≤ s.rxLen.toNat ∧ computedCrc s = carriedCrc s ∧
      examine body s = body (recordChecksum (clearResults s)) := by
  obtain ⟨-, ht⟩ | ⟨-, -, ht⟩ | hpassed := examine_cases body s
  · exact nomatch (congrArg State.err ht).symm.trans hok
  · exact nomatch (congrArg State.err ht).symm.trans hok
  · exact hpassed

/-! ### The responses (R184 to R188) -/

theorem decodeResponse_read {s : State} (hfn : s.rx.readCell 1 = 0x03#8 ∨ s.rx.readCell 1 = 0x04#8) :
    decodeResponse s = readResponse s := if_pos hfn

theorem decodeResponse_write {s : State} (hfn : s.rx.readCell 1 = 0x06#8) : decodeResponse s = addressAndValue s := by
  simp [decodeResponse, hfn]

theorem decodeResponse_other {s : State} (h3 : s.rx.readCell 1 ≠ 0x03#8) (h4 : s.rx.readCell 1 ≠ 0x04#8)
    (h6 : s.rx.readCell 1 ≠ 0x06#8) : decodeResponse s = otherResponse s := by
  simp [decodeResponse, h3, h4, h6]

theorem readResponse_truncated {s : State} (h : s.rxLen.toNat < 3 + (s.rx.readCell 2).toNat + 2) :
    readResponse s = finish .truncatedPayload { s with resN := s.rx.readCell 2 } := if_pos h

theorem readResponse_complete {s : State} (h : 3 + (s.rx.readCell 2).toNat + 2 ≤ s.rxLen.toNat) :
    readResponse s = extractRegisters (s.rx.readCell 2).toNat { s with resN := s.rx.readCell 2 } := if_neg h.not_gt

theorem addressAndValue_mismatch {s : State} (h : s.rxLen.toNat ≠ 8) :
    addressAndValue s = finish .lengthMismatch s := if_pos h

/-- The extracted registers stand at the start of REGS, big-endian, in order (R186). -/
theorem readCell_extractRegisters_of_lt {n j : Nat} {s : State} (hj : j < n / 2) :
    (extractRegisters n s).regs.readCell j = be16 (s.rx.readCell (3 + 2 * j)) (s.rx.readCell (4 + 2 * j)) := by
  have hstored := readCell_writeRange_mem s.regs (payloadRegisters s.rx (n / 2)) (Nat.zero_le j)
    (by simpa [length_payloadRegisters] using hj)
  exact hstored.trans (by simp [payloadRegisters])

/-- Behind the extracted registers REGS is as it was. -/
theorem readCell_extractRegisters_of_le {n j : Nat} {s : State} (hj : n / 2 ≤ j) :
    (extractRegisters n s).regs.readCell j = s.regs.readCell j :=
  readCell_writeRange_outside s.regs (payloadRegisters s.rx (n / 2))
    (.inr (by simpa [length_payloadRegisters] using hj))

/-! ### The codes (R189) -/

theorem err_readResponse (s : State) :
    (readResponse s).err = if s.rxLen.toNat < 3 + (s.rx.readCell 2).toNat + 2 then .truncatedPayload else .ok :=
  apply_ite State.err ..

theorem err_addressAndValue (s : State) :
    (addressAndValue s).err = if s.rxLen.toNat ≠ 8 then .lengthMismatch else .ok := apply_ite State.err ..

theorem err_decodeResponse (s : State) :
    (decodeResponse s).err =
      if s.rx.readCell 1 = 0x03#8 ∨ s.rx.readCell 1 = 0x04#8 then
        (if s.rxLen.toNat < 3 + (s.rx.readCell 2).toNat + 2 then .truncatedPayload else .ok)
      else if s.rx.readCell 1 = 0x06#8 then (if s.rxLen.toNat ≠ 8 then .lengthMismatch else .ok)
      else .ok := by
  simp only [decodeResponse, apply_ite State.err, err_readResponse, err_addressAndValue, otherResponse, finish_err]

/-! ### What a body keeps of the checksum step -/

/-- The four results that the checksum step has recorded are kept, and the code is one of a frame that passed it. -/
structure ChecksumKept (s t : State) : Prop where
  resDev : t.resDev = s.resDev
  resFn : t.resFn = s.resFn
  resCrc : t.resCrc = s.resCrc
  resRxcrc : t.resRxcrc = s.resRxcrc
  err_mem : t.err ∈ [Code.ok, .truncatedPayload, .lengthMismatch]

theorem addressAndValue_kept (s : State) : ChecksumKept s (addressAndValue s) := by
  obtain ⟨-, ht⟩ | ⟨-, ht⟩ := addressAndValue_cases s <;> rw [ht]
  · exact ⟨rfl, rfl, rfl, rfl, by simp⟩
  · exact ⟨rfl, rfl, rfl, rfl, by simp⟩

theorem readResponse_kept (s : State) : ChecksumKept s (readResponse s) := by
  obtain ⟨-, ht⟩ | ⟨-, ht⟩ := readResponse_cases s <;> rw [ht]
  · exact ⟨rfl, rfl, rfl, rfl, by simp⟩
  · exact ⟨rfl, rfl, rfl, rfl, by simp [extractRegisters]⟩

theorem decodeResponse_kept (s : State) : ChecksumKept s (decodeResponse s) := by
  obtain ⟨-, ht⟩ | ⟨-, ht⟩ | ⟨-, -, -, ht⟩ := decodeResponse_cases s <;> rw [ht]
  · exact readResponse_kept s
  · exact addressAndValue_kept s
  · exact ⟨rfl, rfl, rfl, rfl, by simp [otherResponse]⟩

/-- DECODE and PARSE are the common steps followed by a body that keeps what they have recorded. -/
theorem exec_eq_examine {i : Instr} (hi : i = .decode ∨ i = .parse) :
    ∃ body, (∀ s, exec i s = .next (examine body s)) ∧ ∀ r, ChecksumKept r (body r) := by
  obtain rfl | rfl := hi
  · exact ⟨decodeResponse, exec_decode, decodeResponse_kept⟩
  · exact ⟨addressAndValue, exec_parse, addressAndValue_kept⟩

/-! ### One flipped bit (R191) -/

theorem readRange_writeCell {w n i : Nat} (m : Memory w) (v : BitVec w) :
    (m.writeCell i v).readRange 0 n = (m.readRange 0 n).set i v := by
  apply List.ext_getElem
  · simp
  · intro j _ _
    simp [readCell_writeCell, List.getElem_set, eq_comm]

/-- The received bytes after a flip: one byte is another. -/
theorem rxBytes_flipRxBit (n k : Nat) (s : State) :
    rxBytes (flipRxBit n k s) = (rxBytes s).set n (s.rx.readCell n ^^^ (1#8 <<< k)) :=
  readRange_writeCell s.rx _

/-- The CRC is injective in the byte at any one index. -/
theorem crc16_set_injective {bytes : List Byte} {n : Nat} (hn : n < bytes.length) :
    Function.Injective fun b => crc16 (bytes.set n b) := by
  simpa [List.set_eq_take_append_cons_drop, hn] using crc16_replace_injective (bytes.take n) (bytes.drop (n + 1))

theorem crc16_set_ne {bytes : List Byte} {n : Nat} (hn : n < bytes.length) {b : Byte} (hb : b ≠ bytes[n]) :
    crc16 (bytes.set n b) ≠ crc16 bytes := by
  simpa using (crc16_set_injective hn).ne hb

/-- A correct CRC is residue 0 over RX[0..RX_LEN), and a flip moves the residue. -/
theorem crc_ne_of_flipRxBit {s : State} {n k : Nat} (hlen : 3 ≤ s.rxLen.toNat) (hcrc : computedCrc s = carriedCrc s)
    (hn : n < s.rxLen.toNat) (hk : k < 8) :
    computedCrc (flipRxBit n k s) ≠ carriedCrc (flipRxBit n k s) := by
  have hzero : crc16 (rxBytes s) = 0 := (crc16_rxBytes_eq_zero_iff (by omega)).mpr hcrc
  have hmoved : crc16 (rxBytes (flipRxBit n k s)) ≠ crc16 (rxBytes s) := by
    rw [rxBytes_flipRxBit]
    exact crc16_set_ne (by simpa using hn) (by simpa [rxBytes] using xor_bit_ne_self hk (s.rx.readCell n))
  have hlen' : 2 ≤ (flipRxBit n k s).rxLen.toNat := by change 2 ≤ s.rxLen.toNat; omega
  rwa [hzero, Ne, crc16_rxBytes_eq_zero_iff hlen'] at hmoved

/-- Settles O44: the flip breaks the checksum, and the length is as before. -/
theorem singleBitFlipIsReported : Obligations.SingleBitFlipIsReported := by
  intro s i n k hi hlen hcrc hn hk
  obtain ⟨body, hexec, -⟩ := exec_eq_examine hi
  refine ⟨_, hexec _, ?_⟩
  rw [examine_mismatch body (s := flipRxBit n k s) hlen (crc_ne_of_flipRxBit hlen hcrc hn hk)]
  exact ⟨rfl, rfl⟩

/-- Settles O36: the three cases of `examine`, and what a body keeps in the third. -/
theorem commonStepsOfDecodeAndParse : Obligations.CommonStepsOfDecodeAndParse := by
  intro s i hi
  obtain ⟨body, hexec, hkept⟩ := exec_eq_examine hi
  refine ⟨fun hshort => ?_, fun hlen c r hc hr => ⟨fun hne => ?_, fun heq => ?_⟩⟩
  · rw [hexec, examine_tooShort body hshort]
    rfl
  · subst hc hr
    rw [hexec, examine_mismatch body hlen hne]
    rfl
  · subst hc hr
    obtain ⟨hdev, hfn, hcomp, hcarr, herr⟩ := hkept (recordChecksum (clearResults s))
    rw [← examine_passed body hlen heq] at hdev hfn hcomp hcarr herr
    exact ⟨_, hexec s, hdev, hfn, hcomp, hcarr, fun h => by simp [h] at herr, fun h => by simp [h] at herr⟩

/-! ### DECODE (R181, R184 to R189, R192) -/

theorem decode_written (s : State) : ResultsWritten s (examine decodeResponse s) :=
  examine_written (fun _ => decodeResponse_written) s

/-- Settles O37: DECODE writes results only, and its codes are those of the common steps and of its body. -/
theorem decodeCompletesAndKeepsBuffers : Obligations.DecodeCompletesAndKeepsBuffers := by
  refine ⟨rfl, fun _ => reportsIllegal_of_ne_commandWord (by decide), fun s => ?_⟩
  have hcode := err_examine_mem (fun r => (decodeResponse_kept r).err_mem) s
  have hcodes : [Code.frameTooShort, .checksumMismatch, .ok, .truncatedPayload, .lengthMismatch] ⊆
      [Code.ok, .frameTooShort, .checksumMismatch, .truncatedPayload, .lengthMismatch] := by decide
  exact ⟨_, exec_decode s, (decode_written s).valid_iff, hcodes hcode, (decode_written s).same⟩

/-- Settles O38: the two ways through a read response, and the registers of the second. -/
theorem decodeReadResponse : Obligations.DecodeReadResponse := by
  intro s hlen hcrc hfn n hn
  subst hn
  have hbody : exec .decode s = .next (readResponse (recordChecksum (clearResults s))) := by
    rw [exec_decode, examine_passed _ hlen hcrc, decodeResponse_read (s := recordChecksum (clearResults s)) hfn]
  refine ⟨fun hshort => ?_, fun hfits => ?_⟩
  · rw [hbody, readResponse_truncated (s := recordChecksum (clearResults s)) hshort]
    rfl
  · rw [hbody, readResponse_complete (s := recordChecksum (clearResults s)) hfits]
    exact ⟨_, rfl, toNat_registerCount _, fun _ => readCell_extractRegisters_of_lt,
      fun _ => readCell_extractRegisters_of_le, rfl⟩

/-- Settles O40: the dispatch reaches `otherResponse`, which only marks the results valid. -/
theorem decodeOtherFunctionCodes : Obligations.DecodeOtherFunctionCodes := by
  intro s hlen hcrc h3 h4 h6
  rw [exec_decode, examine_passed _ hlen hcrc, decodeResponse_other (s := recordChecksum (clearResults s)) h3 h4 h6]
  exact ⟨_, rfl, hcrc, rfl⟩

/-- Settles O41: the codes of the common steps, then those of the dispatch. -/
theorem decodeReportsFirstFailure : Obligations.DecodeReportsFirstFailure := by
  intro s
  refine ⟨_, exec_decode s, (decode_written s).valid_iff, ?_⟩
  rw [err_examine, err_decodeResponse]
  rfl

/-- Settles O43: OK means that both checks passed and that the body took its accepting way. -/
theorem acceptedFrameLaw : Obligations.AcceptedFrameLaw := by
  intro s t h hok
  obtain rfl := Host.Outcome.next.inj h
  obtain ⟨hlen, -, hbody⟩ := examine_ok hok
  obtain ⟨hsame, hvalid, -, hresults, -⟩ := decode_written s
  obtain ⟨hcrc, hcount⟩ := hresults (hvalid.mpr hok)
  have hfn : (examine decodeResponse s).resFn = s.rx.readCell 1 :=
    hbody ▸ (decodeResponse_kept (recordChecksum (clearResults s))).resFn
  refine ⟨hcrc, hlen, (congrArg State.rxLen hsame :), fun hread => ⟨?_, hcount⟩, fun hwrite => ?_⟩
  · rw [hfn] at hread
    rw [hbody, decodeResponse_read (s := recordChecksum (clearResults s)) hread] at hok ⊢
    obtain ⟨-, ht⟩ | ⟨hfits, ht⟩ := readResponse_cases (recordChecksum (clearResults s))
    · exact nomatch (congrArg State.err ht).symm.trans hok
    · have hlong : 3 + (s.rx.readCell 2).toNat + 2 ≤ s.rxLen.toNat := hfits
      rw [ht]
      change (s.rx.readCell 2).toNat + 5 ≤ s.rxLen.toNat
      omega
  · rw [hfn] at hwrite
    rw [hbody, decodeResponse_write (s := recordChecksum (clearResults s)) hwrite] at hok
    obtain ⟨-, ht⟩ | ⟨height, -⟩ := addressAndValue_cases (recordChecksum (clearResults s))
    · exact nomatch (congrArg State.err ht).symm.trans hok
    · exact height

/-! ### PARSE (R190), and DECODE of function 0x06 (R187) -/

theorem exec_parse_eq_exec_decode {s : State} (hfn : s.rx.readCell 1 = 0x06#8) : exec .parse s = exec .decode s := by
  rw [exec_parse, exec_decode, examine, examine, decodeResponse_write (s := recordChecksum (clearResults s)) hfn]

theorem exec_parse_lengthMismatch {s : State} (hlen : 3 ≤ s.rxLen.toNat) (hcrc : computedCrc s = carriedCrc s)
    (h8 : s.rxLen.toNat ≠ 8) : exec .parse s = .next (finish .lengthMismatch (recordChecksum (clearResults s))) := by
  rw [exec_parse, examine_passed _ hlen hcrc, addressAndValue_mismatch (s := recordChecksum (clearResults s)) h8]

/-- PARSE extracts no registers, however it ends. -/
theorem parse_registers (s : State) :
    (examine addressAndValue s).resN = 0 ∧ (examine addressAndValue s).regCount = 0 ∧
      (examine addressAndValue s).regs = [] := by
  obtain ⟨-, ht⟩ | ⟨-, -, ht⟩ | ⟨-, -, ht⟩ := examine_cases addressAndValue s <;> rw [ht]
  · exact ⟨rfl, rfl, rfl⟩
  · exact ⟨rfl, rfl, rfl⟩
  · obtain ⟨-, ht⟩ | ⟨-, ht⟩ := addressAndValue_cases (recordChecksum (clearResults s)) <;> rw [ht]
    · exact ⟨rfl, rfl, rfl⟩
    · exact ⟨rfl, rfl, rfl⟩

theorem err_addressAndValue_mem (s : State) : (addressAndValue s).err ∈ [Code.ok, .lengthMismatch] := by
  obtain ⟨-, ht⟩ | ⟨-, ht⟩ := addressAndValue_cases s <;> simp [ht]

/-- Settles O42: the cases of the common steps, then the two ways through an 8-byte frame. -/
theorem parseReadsAnyFrame : Obligations.ParseReadsAnyFrame := by
  refine ⟨rfl, fun _ => reportsIllegal_of_ne_commandWord (by decide), fun s hshort => ?_, fun s hlen hne => ?_,
    fun s => exec_parse_eq_exec_decode, fun s hlen hcrc => ⟨exec_parse_lengthMismatch hlen hcrc, fun h8 => ?_⟩,
    fun s => ?_⟩
  · exact congrArg Host.Outcome.next (examine_tooShort addressAndValue hshort)
  · exact congrArg Host.Outcome.next (examine_mismatch addressAndValue hlen hne)
  · exact exec_parse_accepted (BitVec.eq_of_toNat_eq h8) hcrc
  · obtain ⟨hsame, hvalid, -, -⟩ := examine_written (fun _ => addressAndValue_written) s
    obtain ⟨hn, hcount, hregs⟩ := parse_registers s
    have hcode := err_examine_mem err_addressAndValue_mem s
    have hcodes : [Code.frameTooShort, .checksumMismatch, .ok, .lengthMismatch] ⊆
        [Code.ok, .frameTooShort, .checksumMismatch, .lengthMismatch] := by decide
    refine ⟨_, exec_parse s, hvalid, hn, hcount, hcodes hcode, ?_⟩
    rw [SameButResults, hn, hcount, hregs] at hsame
    exact hsame

/-- Settles O39: for function 0x06 DECODE is PARSE. -/
theorem decodeWriteResponse : Obligations.DecodeWriteResponse := by
  intro s hlen hcrc hfn
  rw [← exec_parse_eq_exec_decode hfn, ← hfn]
  exact ⟨exec_parse_lengthMismatch hlen hcrc, fun h8 => exec_parse_accepted (BitVec.eq_of_toNat_eq h8) hcrc⟩

end Sys2Proof.Machine
end

section
/-! SUPPORT. NOP and SRST, and which move of the host takes a pending word off the port; and from it the statements of
44_control.md. -/

namespace Sys2Proof.Machine

/-- Settles O46: the effect is `exec_nop`, and an opcode without immediate has one legal word. -/
theorem nopOnlyWritesErr : Obligations.NopOnlyWritesErr :=
  ⟨rfl, fun _ => reportsIllegal_of_ne_commandWord (by decide), exec_nop⟩

/-- Of the host's moves only a reset takes a pending word off the port: a register is not written while BUSY. -/
theorem hostEffect_takes_pending {w : Word} {s t : State} (h : HostEffect s t) (hp : s.pending = some w)
    (hne : t.pending ≠ some w) : ∃ e rest, s.host = e :: rest ∧ e.resets = true := by
  rw [← hp] at hne
  cases h with
  | quiet ht => exact absurd (congrArg State.pending ht) hne
  | reset e rest hhost he _ => exact ⟨e, rest, hhost, he⟩
  | status v rest _ ht => exact absurd (congrArg State.pending (ht.trans (writeStatus_frame _ _))) hne
  | overrun off v rest _ _ _ _ _ ht => exact absurd (congrArg State.pending ht) hne
  | register r v rest _ _ hb _ => exact absurd (hp.symm.trans hb) (Option.some_ne_none w)

/-- Settles O3: SRST at the CMD write is `blockReset`, whatever is pending; the engine moves only with the pending word,
and the host takes it off the port only by a reset. -/
theorem softResetInsideTheCmdWrite : Obligations.SoftResetInsideTheCmdWrite := by
  refine ⟨rfl, fun s t w h hp hne => ?_, fun s => ?_⟩
  · obtain ⟨v, -, hturn, -, -⟩ | ⟨hturn, he⟩ := step_effect h
    · obtain ⟨hv, -⟩ := engineTurn_eq_some hturn
      exact .inl (hturn.trans (hv.symm.trans hp))
    · exact .inr ⟨hturn, hostEffect_takes_pending (s := countdown s) he hp hne⟩
  · exact ⟨blockReset s, memWrite_srst s, exec_srst s, blockReset_pending s, statusWord_of_clear rfl rfl rfl rfl, rfl⟩

end Sys2Proof.Machine
end

section
/-! SUPPORT. Why a command ends with the code it ends with, said once as a predicate of the code; and from it, and from what
a command can do, the statements of 60_exceptions.md. -/

namespace Sys2Proof.Machine

/-! ### Completion -/

/-- Settles O13: SRST is `blockReset`, and every other command keeps to its frame. -/
theorem everyCommandCompletes : Obligations.EveryCommandCompletes := by
  intro i s
  obtain ⟨t, h⟩ := exec_answers i s
  by_cases hi : i = .srst
  · subst hi
    exact ⟨blockReset s, exec_srst s, rfl, rfl, rfl, rfl, rfl, absurd rfl⟩
  · refine ⟨t, h, ?_⟩
    rw [show t = _ from exec_frame h hi]
    exact ⟨rfl, rfl, rfl, rfl, rfl, fun _ => ⟨rfl, rfl, rfl⟩⟩

/-! ### What a failure keeps (R241) -/

/-- Settles O49: a command that fails is ENCODE, which then writes TX_LEN alone, RX_PUSH, which then writes nothing, or
DECODE or PARSE, which write results only. -/
theorem failureKeepsReceivedBytes : Obligations.FailureKeepsReceivedBytes := by
  intro i s t h herr
  cases commandEffect_of_exec h with
  | nop _ ht => exact absurd (congrArg State.err ht) herr
  | crc _ _ ht => exact absurd (congrArg State.err ht) herr
  | encodeRejected _ ht => simp [ht]
  | encodeAccepted _ ht => exact absurd (congrArg State.err ht) herr
  | loopback _ ht => exact absurd (congrArg State.err ht) herr
  | rxClear _ ht => exact absurd (congrArg State.err ht) herr
  | pushFull _ _ ht => simp [ht]
  | pushRoom _ _ _ ht => exact absurd (congrArg State.err ht) herr
  | results _ hw =>
    rw [show t = _ from hw.same]
    exact ⟨rfl, rfl, rfl, rfl⟩
  | srst _ ht => exact absurd (congrArg State.err ht) herr

/-! ### The causes of the codes (R240) -/

/-- Why a command that begins in a state may end with a code: OK needs no cause, and IllegalCommand has none. -/
def RaisedFor (i : Instr) (s : State) : Code → Prop
  | .ok => True
  | .encodingError => i = .encode ∧ operandOutOfRange s = true
  | .frameTooShort => (i = .decode ∨ i = .parse) ∧ s.rxLen.toNat < 3
  | .checksumMismatch => (i = .decode ∨ i = .parse) ∧ computedCrc s ≠ carriedCrc s
  | .truncatedPayload =>
    i = .decode ∧ (s.rx.readCell 1 = 0x03#8 ∨ s.rx.readCell 1 = 0x04#8) ∧
      s.rxLen.toNat < 3 + (s.rx.readCell 2).toNat + 2
  | .lengthMismatch => (i = .parse ∨ (i = .decode ∧ s.rx.readCell 1 = 0x06#8)) ∧ s.rxLen.toNat ≠ 8
  | .bufferFull => (∃ b, i = .rxPush b) ∧ s.rxLen.toNat = s.rxCap
  | .illegalCommand => False

theorem readResponse_raisedFor {s : State} (hfn : s.rx.readCell 1 = 0x03#8 ∨ s.rx.readCell 1 = 0x04#8) :
    RaisedFor .decode s (readResponse s).err := by
  obtain ⟨hshort, ht⟩ | ⟨-, ht⟩ := readResponse_cases s <;> rw [ht]
  · exact ⟨rfl, hfn, hshort⟩
  · trivial

theorem addressAndValue_raisedFor {i : Instr} {s : State}
    (hi : i = .parse ∨ (i = .decode ∧ s.rx.readCell 1 = 0x06#8)) : RaisedFor i s (addressAndValue s).err := by
  obtain ⟨hlen, ht⟩ | ⟨-, ht⟩ := addressAndValue_cases s <;> rw [ht]
  · exact ⟨hi, hlen⟩
  · trivial

theorem decodeResponse_raisedFor (s : State) : RaisedFor .decode s (decodeResponse s).err := by
  obtain ⟨hfn, ht⟩ | ⟨hfn, ht⟩ | ⟨-, -, -, ht⟩ := decodeResponse_cases s <;> rw [ht]
  · exact readResponse_raisedFor hfn
  · exact addressAndValue_raisedFor (.inr ⟨rfl, hfn⟩)
  · trivial

/-- The common steps raise their own two codes for their own causes; the body then sees the same received bytes. -/
theorem examine_raisedFor {i : Instr} {body : State → State} (hi : i = .decode ∨ i = .parse)
    (hbody : ∀ r, RaisedFor i r (body r).err) (s : State) : RaisedFor i s (examine body s).err := by
  obtain ⟨hshort, ht⟩ | ⟨-, hcrc, ht⟩ | ⟨-, -, ht⟩ := examine_cases body s <;> rw [ht]
  · exact ⟨hi, hshort⟩
  · exact ⟨hi, hcrc⟩
  · exact hbody (recordChecksum (clearResults s))

theorem exec_raisedFor {i : Instr} {s t : State} (h : exec i s = .next t) : RaisedFor i s t.err := by
  have answer {u : State} (hu : exec i s = .next u) : t = u := Host.Outcome.next.inj (h.symm.trans hu)
  cases i with
  | nop | crcInit | crcByte | crcRx | loopback | rxClear | srst =>
    rw [answer rfl]
    trivial
  | encode =>
    cases hop : operandOutOfRange s with
    | true => exact answer (exec_encode_rejected s hop) ▸ ⟨rfl, hop⟩
    | false => exact answer (exec_encode_accepted s hop) ▸ trivial
  | rxPush b =>
    by_cases hfull : s.rxLen.toNat = s.rxCap
    · exact answer (exec_rxPush_full b s hfull) ▸ ⟨⟨b, rfl⟩, hfull⟩
    · exact answer (exec_rxPush_room b s hfull) ▸ trivial
  | decode => exact answer (exec_decode s) ▸ examine_raisedFor (.inl rfl) decodeResponse_raisedFor s
  | parse =>
    exact answer (exec_parse s) ▸ examine_raisedFor (.inr rfl) (fun _ => addressAndValue_raisedFor (.inl rfl)) s

/-- Settles O48: the causes are `RaisedFor`, read at each code. -/
theorem statusCodesAndTheirCauses : Obligations.StatusCodesAndTheirCauses := by
  refine ⟨⟨rfl, rfl, rfl, rfl, rfl, rfl, rfl, rfl⟩, fun _ _ s => perform_of_illegal s, fun i s t h => ?_⟩
  have raised {c : Code} (hc : t.err = c) : RaisedFor i s c := hc ▸ exec_raisedFor h
  refine ⟨fun hc => ?_, raised, raised, raised, raised, raised, raised⟩
  obtain ⟨hi, hout⟩ := raised hc
  exact ⟨hi, operandOutOfRange_iff.mp hout⟩

end Sys2Proof.Machine
end

section
/-! SUPPORT. Three things that leave no trace: the code ERR held before a command, a pending word that a reset overtakes,
and the leftover bytes of RX and TX; and from them the statements of 70_reset_and_hazards.md. -/

namespace Sys2Proof.Machine

/-! ### The code before a command (R277) -/

theorem finish_finish (c d : Code) (s : State) : finish d (finish c s) = finish d s := rfl

/-- A body ends with a code of its own on each of its ways. -/
theorem addressAndValue_finish (c : Code) (s : State) : addressAndValue (finish c s) = addressAndValue s := rfl

theorem decodeResponse_finish (c : Code) (s : State) : decodeResponse (finish c s) = decodeResponse s := rfl

/-- The two failures of the common steps overwrite the code, and the body is one that does. -/
theorem examine_finish {body : State → State} (hbody : ∀ c r, body (finish c r) = body r) (c : Code) (s : State) :
    examine body (finish c s) = examine body s := by
  obtain ⟨hshort, ht⟩ | ⟨hlen, hcrc, ht⟩ | ⟨hlen, hcrc, ht⟩ := examine_cases body s
  · rw [ht]
    exact examine_tooShort body (s := finish c s) hshort
  · rw [ht]
    exact examine_mismatch body (s := finish c s) hlen hcrc
  · rw [ht, examine_passed body (s := finish c s) hlen hcrc]
    exact hbody c (recordChecksum (clearResults s))

/-- Every command ends with a code of its own, and no test on the way to it reads the old one. -/
theorem exec_finish (i : Instr) (c : Code) (s : State) : exec i (finish c s) = exec i s := by
  cases i with
  | nop | crcInit | crcByte | crcRx | encode | loopback | rxClear | rxPush | srst => rfl
  | decode => rw [exec_decode, exec_decode, examine_finish decodeResponse_finish]
  | parse => rw [exec_parse, exec_parse, examine_finish addressAndValue_finish]

theorem perform_finish (w : Word) (c : Code) (s : State) : perform w (finish c s) = perform w s := by
  cases hdec : decode w with
  | error e => rw [perform_of_illegal _ hdec, perform_of_illegal _ hdec, finish_finish]
  | ok i =>
    by_cases hi : i = .srst
    · subst hi
      rw [perform_of_srstWord _ hdec, perform_of_srstWord _ hdec, finish_finish]
    · rw [perform_of_command _ hdec hi, perform_of_command _ hdec hi, exec_finish]

/-- Settles O15: to hold another code is to be finished with it, which no command and no word sees. -/
theorem errDescribesOnlyTheLastCommand : Obligations.ErrDescribesOnlyTheLastCommand :=
  ⟨fun i s c => exec_finish i c s, fun w s c => perform_finish w c s⟩

/-! ### A reset before the engine's step (R271) -/

/-- The two resets are admitted events (R65). -/
theorem admitted_of_resets {e : HostEvent} (he : e.resets = true) : e.admitted = true := by
  cases e with
  | rd off n => cases he
  | poll => cases he
  | powerOn => rfl
  | wr off n v =>
    obtain ⟨rfl, rfl, -⟩ := resets_wr_iff.mp he
    rfl

/-- On the host's turn a reset leaves the reset block, in which neither PENDING nor the countdown is left. -/
theorem step_of_reset {e : HostEvent} {s : State} {rest : List HostEvent} (hturn : engineTurn s = none)
    (hhost : s.host = e :: rest) (he : e.resets = true) : step s = .next (blockReset { s with host := rest }) := by
  have hhost' : (countdown s).host = e :: rest := hhost
  obtain ⟨t, ht⟩ := hostStep_answers hhost' (admitted_of_resets he)
  rw [step_of_hostTurn hturn, ht, blockReset_of_hostStep hhost' he ht]
  rfl

/-- Settles O2: with the countdown running, or with nothing pending, it is the host's turn, and `blockReset` keeps neither
word nor countdown. -/
theorem resetWhileBusyDiscardsPending : Obligations.ResetWhileBusyDiscardsPending := by
  intro s w e rest _ hlat hhost he
  have hne : s.host ≠ [] := hhost ▸ List.cons_ne_nil e rest
  exact ⟨_, step_of_reset (engineTurn_eq_none_iff.mpr (.inr ⟨hlat, hne⟩)) hhost he, rfl,
    step_of_reset (s := { s with pending := none }) (engineTurn_eq_none_iff.mpr (.inl rfl)) hhost he, rfl⟩

/-! ### Leftover bytes (R280) -/

/-- The two buffers hold the same entries at every index below n. -/
def AgreeBelow {w : Nat} (n : Nat) (m m' : Memory w) : Prop := ∀ i, i < n → m'.readCell i = m.readCell i

theorem AgreeBelow.readRange {w n k : Nat} {m m' : Memory w} (h : AgreeBelow n m m') (hk : k ≤ n) :
    m'.readRange 0 k = m.readRange 0 k := readRange_congr m' m 0 k fun j hj => h (0 + j) (by omega)

/-- The same entry written at n extends the agreement by one. -/
theorem AgreeBelow.writeCell {w n : Nat} {m m' : Memory w} (h : AgreeBelow n m m') (v : BitVec w) :
    AgreeBelow (n + 1) (m.writeCell n v) (m'.writeCell n v) := by
  intro i hi
  obtain hlt | rfl := Nat.lt_succ_iff_lt_or_eq.mp hi
  · rw [readCell_writeCell_of_ne m' v hlt.ne, readCell_writeCell_of_ne m v hlt.ne, h i hlt]
  · rw [readCell_writeCell_self, readCell_writeCell_self]

/-- A stored sequence hides what the buffers held before. -/
theorem agreeBelow_writeRange {w : Nat} (m m' : Memory w) (vs : List (BitVec w)) :
    AgreeBelow vs.length (m.writeRange 0 vs) (m'.writeRange 0 vs) := by
  intro i hi
  rw [readCell_writeRange_mem m' vs (Nat.zero_le i) hi, readCell_writeRange_mem m vs (Nat.zero_le i) hi]

/-- The state with other bytes in the two buffers and all else as it was, the lengths too. -/
def withBuffers (rx tx : Memory 8) (s : State) : State := { s with rx := rx, tx := tx }

section
variable {s : State} {rx : Memory 8} (hrx : AgreeBelow s.rxLen.toNat s.rx rx) (tx : Memory 8)
include hrx

theorem rxBytes_withBuffers : rxBytes (withBuffers rx tx s) = rxBytes s := hrx.readRange le_rfl

theorem computedCrc_withBuffers : computedCrc (withBuffers rx tx s) = computedCrc s :=
  congrArg crc16 (hrx.readRange (Nat.sub_le _ 2))

/-- The carried CRC is the last two received bytes. -/
theorem carriedCrc_withBuffers (hlen : 3 ≤ s.rxLen.toNat) : carriedCrc (withBuffers rx tx s) = carriedCrc s :=
  congrArg₂ le16 (hrx (s.rxLen.toNat - 2) (by omega)) (hrx (s.rxLen.toNat - 1) (by omega))

theorem recordChecksum_withBuffers (hlen : 3 ≤ s.rxLen.toNat) :
    recordChecksum (withBuffers rx tx s) = withBuffers rx tx (recordChecksum s) := by
  have hdev : (withBuffers rx tx s).rx.readCell 0 = s.rx.readCell 0 := hrx 0 (by omega)
  have hfn : (withBuffers rx tx s).rx.readCell 1 = s.rx.readCell 1 := hrx 1 (by omega)
  rw [recordChecksum, hdev, hfn, computedCrc_withBuffers hrx tx, carriedCrc_withBuffers hrx tx hlen]
  rfl

/-- A complete payload lies below RX_LEN (R185). -/
theorem AgreeBelow.payloadRegisters {n : Nat} (hfits : 3 + n + 2 ≤ s.rxLen.toNat) :
    payloadRegisters rx (n / 2) = payloadRegisters s.rx (n / 2) := by
  refine List.map_congr_left fun j hj => ?_
  have hj : j < n / 2 := List.mem_range.mp hj
  rw [hrx (3 + 2 * j) (by omega), hrx (4 + 2 * j) (by omega)]

theorem extractRegisters_withBuffers {n : Nat} (hfits : 3 + n + 2 ≤ s.rxLen.toNat) :
    extractRegisters n (withBuffers rx tx s) = withBuffers rx tx (extractRegisters n s) := by
  have hpayload := hrx.payloadRegisters hfits
  simp only [extractRegisters, withBuffers, finish, hpayload]

/-- The byte count is a received byte, and the registers are read only behind the length check (R185). -/
theorem readResponse_withBuffers (hlen : 3 ≤ s.rxLen.toNat) :
    readResponse (withBuffers rx tx s) = withBuffers rx tx (readResponse s) := by
  have hcount : (withBuffers rx tx s).rx.readCell 2 = s.rx.readCell 2 := hrx 2 (by omega)
  obtain ⟨hshort, ht⟩ | ⟨hfits, ht⟩ := readResponse_cases s
  · rw [ht, readResponse_truncated (s := withBuffers rx tx s) (by rwa [hcount]), hcount]
    rfl
  · rw [ht, readResponse_complete (s := withBuffers rx tx s) (by rwa [hcount]), hcount]
    exact extractRegisters_withBuffers (s := { s with resN := s.rx.readCell 2 }) hrx tx hfits

/-- Address and value are read only from a frame of eight bytes (R187, R190). -/
theorem addressAndValue_withBuffers :
    addressAndValue (withBuffers rx tx s) = withBuffers rx tx (addressAndValue s) := by
  obtain ⟨hne, ht⟩ | ⟨h8, ht⟩ := addressAndValue_cases s
  · rw [ht, addressAndValue_mismatch (s := withBuffers rx tx s) hne]
    rfl
  · rw [ht, ← hrx 2 (by omega), ← hrx 3 (by omega), ← hrx 4 (by omega), ← hrx 5 (by omega)]
    exact if_neg (not_not.mpr h8)

theorem decodeResponse_withBuffers (hlen : 3 ≤ s.rxLen.toNat) :
    decodeResponse (withBuffers rx tx s) = withBuffers rx tx (decodeResponse s) := by
  have hcode : (withBuffers rx tx s).rx.readCell 1 = s.rx.readCell 1 := hrx 1 (by omega)
  obtain ⟨hfn, ht⟩ | ⟨hfn, ht⟩ | ⟨h3, h4, h6, ht⟩ := decodeResponse_cases s
  · rw [ht, decodeResponse_read (by rwa [hcode]), readResponse_withBuffers hrx tx hlen]
  · rw [ht, decodeResponse_write (by rwa [hcode]), addressAndValue_withBuffers hrx tx]
  · rw [ht, decodeResponse_other (by rwa [hcode]) (by rwa [hcode]) (by rwa [hcode])]
    rfl

end

/-- A body of DECODE or PARSE reads received bytes only, in a frame as long as the checksum step asks for (R182). -/
def ReadsReceivedOnly (body : State → State) : Prop :=
  ∀ (s : State) (rx tx : Memory 8), 3 ≤ s.rxLen.toNat → AgreeBelow s.rxLen.toNat s.rx rx →
    body (withBuffers rx tx s) = withBuffers rx tx (body s)

theorem decodeResponse_readsReceivedOnly : ReadsReceivedOnly decodeResponse :=
  fun _ _ tx hlen hrx => decodeResponse_withBuffers hrx tx hlen

theorem addressAndValue_readsReceivedOnly : ReadsReceivedOnly addressAndValue :=
  fun _ _ tx _ hrx => addressAndValue_withBuffers hrx tx

/-- The common steps read the received bytes only, and not even those of a frame that is too short (R182, R183). -/
theorem examine_withBuffers {body : State → State} (hbody : ReadsReceivedOnly body) {s : State} {rx : Memory 8}
    (hrx : AgreeBelow s.rxLen.toNat s.rx rx) (tx : Memory 8) :
    examine body (withBuffers rx tx s) = withBuffers rx tx (examine body s) := by
  by_cases hlen : 3 ≤ s.rxLen.toNat
  · have hcomputed := computedCrc_withBuffers hrx tx
    have hcarried := carriedCrc_withBuffers hrx tx hlen
    have hrecord : recordChecksum (clearResults (withBuffers rx tx s)) =
        withBuffers rx tx (recordChecksum (clearResults s)) :=
      recordChecksum_withBuffers (s := clearResults s) hrx tx hlen
    by_cases hcrc : computedCrc s = carriedCrc s
    · rw [examine_passed body hlen hcrc,
        examine_passed body (s := withBuffers rx tx s) hlen (by rwa [hcomputed, hcarried]), hrecord]
      exact hbody (recordChecksum (clearResults s)) rx tx hlen hrx
    · rw [examine_mismatch body hlen hcrc,
        examine_mismatch body (s := withBuffers rx tx s) hlen (by rwa [hcomputed, hcarried]), hrecord]
      rfl
  · have hshort : s.rxLen.toNat < 3 := Nat.lt_of_not_le hlen
    rw [examine_tooShort body hshort, examine_tooShort body (s := withBuffers rx tx s) hshort]
    rfl

/-- What writes results only leaves the lengths, and so what is leftover, as they were. -/
theorem SameButResults.sameButStale {s t : State} (h : SameButResults s t) {rx tx : Memory 8}
    (hrx : AgreeBelow s.rxLen.toNat s.rx rx) (htx : AgreeBelow s.txLen.toNat s.tx tx) :
    SameButStale t (withBuffers rx tx t) := by
  rw [show t = _ from h]
  exact ⟨rfl, hrx, htx⟩

/-- Over other leftover bytes a command leaves the same state but for leftover bytes: the bytes it copies or checks lie
below the lengths, and those that a raised length takes in it has written. -/
theorem exec_withBuffers (i : Instr) {s : State} {rx tx : Memory 8}
    (hrx : AgreeBelow s.rxLen.toNat s.rx rx) (htx : AgreeBelow s.txLen.toNat s.tx tx) :
    ∃ t t', exec i s = .next t ∧ exec i (withBuffers rx tx s) = .next t' ∧ SameButStale t t' := by
  cases i with
  | nop | crcInit | crcByte => exact ⟨_, _, rfl, rfl, rfl, hrx, htx⟩
  | crcRx =>
    rw [exec_crcRx, exec_crcRx, rxBytes_withBuffers hrx]
    exact ⟨_, _, rfl, rfl, rfl, hrx, htx⟩
  | encode =>
    cases hop : operandOutOfRange s with
    | true =>
      exact ⟨_, _, exec_encode_rejected s hop, exec_encode_rejected (withBuffers rx tx s) hop, rfl, hrx, nofun⟩
    | false =>
      exact ⟨_, _, exec_encode_accepted s hop, exec_encode_accepted (withBuffers rx tx s) hop, rfl, hrx,
        agreeBelow_writeRange s.tx tx (operandFrame s)⟩
  | loopback =>
    have hcopied : txBytes (withBuffers rx tx s) = txBytes s := htx.readRange le_rfl
    rw [exec_loopback, exec_loopback, hcopied]
    refine ⟨_, _, rfl, rfl, rfl, fun i hi => ?_, htx⟩
    exact agreeBelow_writeRange s.rx rx (txBytes s) i (by rwa [length_txBytes, ← toNat_txLen_setWidth])
  | rxClear => exact ⟨_, _, rfl, rfl, rfl, nofun, htx⟩
  | rxPush b =>
    by_cases hfull : s.rxLen.toNat = s.rxCap
    · exact ⟨_, _, exec_rxPush_full b s hfull, exec_rxPush_full b (withBuffers rx tx s) hfull, rfl, hrx, htx⟩
    · refine ⟨_, _, exec_rxPush_room b s hfull, exec_rxPush_room b (withBuffers rx tx s) hfull, rfl, fun i hi => ?_,
        htx⟩
      have hgrow : (s.rxLen + 1).toNat ≤ s.rxLen.toNat + 1 := Nat.mod_le _ _
      exact hrx.writeCell b i (Nat.lt_of_lt_of_le hi hgrow)
  | decode =>
    rw [exec_decode, exec_decode, examine_withBuffers decodeResponse_readsReceivedOnly hrx]
    exact ⟨_, _, rfl, rfl, (decode_written s).same.sameButStale hrx htx⟩
  | parse =>
    rw [exec_parse, exec_parse, examine_withBuffers addressAndValue_readsReceivedOnly hrx]
    exact ⟨_, _, rfl, rfl, (examine_written (fun _ => addressAndValue_written) s).same.sameButStale hrx htx⟩
  | srst => exact ⟨_, _, rfl, rfl, rfl, nofun, nofun⟩

/-- Settles O45: two states that differ at most in leftover bytes are one state with other buffers, and each command
keeps them so. -/
theorem staleBytesAreNeverRead : Obligations.StaleBytesAreNeverRead := by
  rintro i s s' t ⟨hs', hrx, htx⟩ h
  obtain ⟨u, t', hu, ht', hsame⟩ := exec_withBuffers i hrx htx
  obtain rfl := Host.Outcome.next.inj (h.symm.trans hu)
  exact ⟨t', (congrArg (exec i) hs').trans ht', hsame⟩

end Sys2Proof.Machine
end
